-- ==== Sys2Proof/Word.lean ====
section
/-! DEFINITION. The word types of the CRC unit: every datapath value is an unsigned bit vector of a
stated width, bit 0 the least significant (spec 00_scope.md R9, R10). -/

namespace Sys2Proof

/-- A 32-bit register word or buffer address (10_state.md R23; 00_scope.md R8, `AW`). -/
abbrev Word := BitVec 32

/-- A buffer byte (20_memory.md R60) and a table index (41_stream_reducer.md R126). -/
abbrev Byte := BitVec 8

/-- The number of byte addresses of buffer memory (20_memory.md R61). -/
abbrev addressSpace : Nat := 2 ^ 32

end Sys2Proof
end

