-- ==== Sys2Proof/Syntax.lean ====
section
/-! DEFINITION. The commands of the CRC unit (one constructor per row of spec/opcode_table.json), the
fields of a command word, the names of its registers, and the lines of a host program. -/

namespace Sys2Proof

/-- The ten commands (spec 30_encoding.md R83). They carry no operand field (R85). -/
inductive Instr where
  | nop
  | mktbl8
  | mktbl16
  | mktbl32
  | calc8
  | calc16
  | calc32
  | rev8
  | rev16
  | rev32
  deriving DecidableEq, Repr

/-- The three widths, and with them the three channels n = 0, 1, 2 (00_scope.md R4). -/
inductive Width where
  | w8
  | w16
  | w32
  deriving DecidableEq, Repr

/-- W of a channel (00_scope.md R4). -/
def Width.bits : Width → Nat
  | .w8 => 8
  | .w16 => 16
  | .w32 => 32

/-- Channel index n (00_scope.md R4). -/
def Width.index : Width → Nat
  | .w8 => 0
  | .w16 => 1
  | .w32 => 2

/-- The three fields of a command word (30_encoding.md R80). -/
structure CmdFields where
  z : BitVec 24
  cls : BitVec 4
  wc : BitVec 4
  deriving DecidableEq, Repr

/-- The registers of one channel (10_state.md R23, second part of the map). -/
inductive ChanReg where
  | poly
  | init
  | xorout
  | cfg
  | tblstat
  | tblpoly
  | table (i : Byte)
  deriving DecidableEq, Repr

/-- The registers of the block (10_state.md R23). -/
inductive Reg where
  | cmd
  | status
  | addr
  | len
  | opnd
  | result
  | faultaddr
  | chan (n : Width) (r : ChanReg)
  deriving DecidableEq, Repr

/-- The lines of a host program (30_encoding.md R88). -/
inductive HostLine where
  /-- `WR <reg>, <value>`. -/
  | wr (r : Reg) (v : Word)
  /-- `RD <reg>`. -/
  | rd (r : Reg)
  /-- A mnemonic: one write of the command word to CMD. -/
  | cmd (i : Instr)
  /-- `<label>:`, the host's own. -/
  | label (l : String)
  /-- `BUSY <label>`, the host's own branch on bit 0 of the preceding `RD STATUS`. -/
  | busy (l : String)
  deriving DecidableEq, Repr

end Sys2Proof
end

