-- ==== Sys2Proof/Decode.lean ====
section
/-! DEFINITION. The decoder of command words, total on every 32-bit word and rejecting by name (spec
30_encoding.md R80 to R86), and after it the encoder, written from the opcode map of R83. -/

namespace Sys2Proof

/-- Why a word is no command (30_encoding.md R86). Every reason ends with ILLEGAL_CMD (R84). -/
inductive Reject where
  /-- Z is not 0 (R80). -/
  | zNotZero
  /-- CLS is 0x4 to 0xF (R81). -/
  | reservedClass
  /-- WC is 0 or 0x4 to 0xF for MKTBL, CALC or REV (R82). -/
  | reservedWidthCode
  /-- WC is not 0 for NOP (R82). -/
  | nopWidthCode
  deriving DecidableEq, Repr

/-- The classes (30_encoding.md R81). -/
inductive Cls where
  | nop
  | mktbl
  | calc
  | rev
  deriving DecidableEq, Repr

/-- The fields Z[31:8], CLS[7:4], WC[3:0] (30_encoding.md R80). -/
def CmdFields.ofWord (w : Word) : CmdFields where
  z := w.extractLsb' 8 24
  cls := w.extractLsb' 4 4
  wc := w.extractLsb' 0 4

/-- CLS values (30_encoding.md R81). -/
def decodeCls (cls : BitVec 4) : Option Cls :=
  if cls = 0x0 then some .nop
  else if cls = 0x1 then some .mktbl
  else if cls = 0x2 then some .calc
  else if cls = 0x3 then some .rev
  else none

/-- WC values of the classes other than NOP (30_encoding.md R82). -/
def decodeWc (wc : BitVec 4) : Option Width :=
  if wc = 0x1 then some .w8
  else if wc = 0x2 then some .w16
  else if wc = 0x3 then some .w32
  else none

/-- The command of a class and a width (30_encoding.md R83). -/
def classCommand : Cls → Width → Instr
  | .nop, _ => .nop
  | .mktbl, .w8 => .mktbl8
  | .mktbl, .w16 => .mktbl16
  | .mktbl, .w32 => .mktbl32
  | .calc, .w8 => .calc8
  | .calc, .w16 => .calc16
  | .calc, .w32 => .calc32
  | .rev, .w8 => .rev8
  | .rev, .w16 => .rev16
  | .rev, .w32 => .rev32

/-- Decoding of the three fields. -/
def CmdFields.decode (f : CmdFields) : Except Reject Instr :=
  if f.z ≠ 0 then .error .zNotZero
  else
    match decodeCls f.cls with
    | none => .error .reservedClass
    | some .nop => if f.wc = 0 then .ok .nop else .error .nopWidthCode
    | some .mktbl =>
      match decodeWc f.wc with
      | none => .error .reservedWidthCode
      | some n => .ok (classCommand .mktbl n)
    | some .calc =>
      match decodeWc f.wc with
      | none => .error .reservedWidthCode
      | some n => .ok (classCommand .calc n)
    | some .rev =>
      match decodeWc f.wc with
      | none => .error .reservedWidthCode
      | some n => .ok (classCommand .rev n)

/-- The decoder: total on 32-bit words (30_encoding.md R84). -/
def decode (w : Word) : Except Reject Instr := (CmdFields.ofWord w).decode

/-- The command word of each command, as the opcode map lists it (30_encoding.md R83). -/
def encode : Instr → Word
  | .nop => 0x00000000
  | .mktbl8 => 0x00000011
  | .mktbl16 => 0x00000012
  | .mktbl32 => 0x00000013
  | .calc8 => 0x00000021
  | .calc16 => 0x00000022
  | .calc32 => 0x00000023
  | .rev8 => 0x00000031
  | .rev16 => 0x00000032
  | .rev32 => 0x00000033

/-- The 32-bit word of a table row's `nbits` bits `w`, every bit above them 0. A command is one 32-bit
word (30_encoding.md R80), written to CMD as one value, so there is no byte order to choose (20_memory.md
R65). -/
def tableWord (nbits w : Nat) : Word := BitVec.ofNat 32 (w % 2 ^ nbits)

/-- What the decoder reads from a table row's bits. A row of more than 32 bits is no command word
(30_encoding.md R80: "There is no other length"). -/
def decodeTableWord (nbits w : Nat) : Option Instr :=
  if nbits ≤ 32 then
    match decode (tableWord nbits w) with
    | .ok i => some i
    | .error _ => none
  else none

end Sys2Proof
end

