-- ==== Sys2Proof/Config.lean ====
section
/-! DEFINITION. What a platform fixes for the CRC unit (spec 00_scope.md R8) as plain data, and the
free values: constants without a body, of which nothing can be proved. -/

namespace Sys2Proof

/-- The width-8 Right-mode update (00_scope.md R8, 41_stream_reducer.md R125, conflict C1; log 18). -/
inductive Right8Fold where
  /-- `T[c ^ b] ^ c`, the spec's default. -/
  | literal
  /-- `T[c ^ b]`, the alternative. -/
  | generic
  deriving DecidableEq, Repr

/-- The addresses `base` to `base + size - 1`. -/
structure Region where
  base : Nat
  size : Nat
  deriving DecidableEq, Repr

/-- The parameters of 00_scope.md R8 that are not fixed, and the regions of 20_memory.md R69. They are
not the block's state (10_state.md R22): the model holds them beside it so that every theorem is about
every platform (log 4), and no event changes them. -/
structure Platform where
  /-- `BASE`, the block's base address on the host bus. -/
  base : Nat
  /-- `BUF_OK`: the buffer addresses whose byte reads complete. -/
  readable : List Region
  /-- `RIGHT8_FOLD`. -/
  right8Fold : Right8Fold
  /-- Regions of buffer memory whose reads have a side effect (20_memory.md R69; log 9). -/
  sideEffecting : List Region
  deriving DecidableEq, Repr

/-- The size of the block's window on the host bus (10_state.md R23). -/
abbrev windowSize : Nat := 0x4000

/-- Free value: what a host read of a register returns where the spec says `any value`
(70_reset_and_hazards.md R211, 10_state.md R39; log 5). Applied to the draw counter and the offset. -/
opaque Config.freeRead : Nat → Nat → Word

/-- Free value: the byte the engine reads at an address that was written while the command was
pending (20_memory.md R73; log 7). Applied to the draw counter and the address. -/
opaque Config.racedByte : Nat → Word → Byte

/-- Free value: the platform's byte at a readable buffer address that no cell of memory lists, the
answer of the memory oracle of 20_memory.md R60 (log 8). -/
opaque Config.bufferByte : Word → Byte

end Sys2Proof
end

