-- ==== Sys2Proof/Machine/State.lean ====
section
/-! DEFINITION. The state of the CRC unit and what stands around it, as plain data, its faults and
refusals, and the state right after reset. -/

namespace Sys2Proof.Machine

/-- Shift direction (spec 00_scope.md R17: Left = 0, Right = 1). -/
inductive Dir where
  | left
  | right
  deriving DecidableEq, Repr

/-- STATUS.ERR (60_exceptions.md R170). Codes 5 to 15 are never produced, so they have no name here. -/
inductive ErrCode where
  | ok
  | illegalCmd
  | noTable
  | range
  | busFault
  deriving DecidableEq, Repr

/-- CFG (10_state.md R36): three bits are stored, the rest reads 0. -/
structure Cfg where
  refin : Bool
  refout : Bool
  dir : Dir
  deriving DecidableEq, Repr

/-- A lookup table: exactly 256 entries of W bits (10_state.md R39). -/
abbrev Table (w : Nat) := Vector (BitVec w) 256

/-- The registers of a channel of width w (10_state.md R32 to R39). The binding is the pair
(`tblpoly`, `tdir`), valid when `tvalid` (R33). -/
structure Channel (w : Nat) where
  poly : BitVec w
  init : BitVec w
  xorout : BitVec w
  cfg : Cfg
  tvalid : Bool
  tdir : Dir
  tblpoly : BitVec w
  table : Table w
  deriving DecidableEq, Repr

/-- The listed bytes of buffer memory: addresses strictly rising and below 2^32 (`Memory.wf`). An
unlisted address holds no byte of the list (log 8). -/
abbrev Memory := List Host.Cell

/-- One move of the world around the engine, or the engine's turn (10_state.md R22; log 1). -/
inductive Event where
  /-- The engine's turn (70_reset_and_hazards.md R204, R210). -/
  | engine
  /-- A host read of `bits` bits at a bus address (10_state.md R24). -/
  | hostRead (busAddr : Nat) (bits : Nat)
  /-- A host write of `bits` bits at a bus address (10_state.md R24). -/
  | hostWrite (busAddr : Nat) (bits : Nat) (v : Word)
  /-- Any agent writes a byte of buffer memory (20_memory.md R72 e, R73). -/
  | bufferWrite (a : Word) (b : Byte)
  /-- Reset (70_reset_and_hazards.md R200). -/
  | reset
  deriving DecidableEq, Repr

/-- What the block answers to a host access. -/
inductive Answer where
  /-- The value of a read (10_state.md R24). -/
  | data (v : Word)
  /-- The ordinary answer to a write, refused or not (log 20). -/
  | written
  /-- The bus error of a wrong width or a misaligned offset (20_memory.md R66; log 10). -/
  | busError
  /-- The access is not in the block's window: the block does not answer (log 11). -/
  | notSelected
  deriving DecidableEq, Repr

/-- The state. -/
structure State where
  /-- The CMD latch (10_state.md R25, R41 a); STATUS.BUSY is 1 exactly while it holds a word (log 15). -/
  pending : Option Word
  /-- STATUS.ERR (10_state.md R26). -/
  err : ErrCode
  /-- STATUS.WERR (10_state.md R26). -/
  werr : Bool
  /-- ADDR (10_state.md R27). -/
  addr : Word
  /-- LEN (10_state.md R28). -/
  len : Word
  /-- OPND (10_state.md R29). -/
  opnd : Word
  /-- RESULT (10_state.md R30). -/
  result : Word
  /-- FAULTADDR (10_state.md R31). -/
  faultaddr : Word
  /-- Channel 0. -/
  ch8 : Channel 8
  /-- Channel 1. -/
  ch16 : Channel 16
  /-- Channel 2. -/
  ch32 : Channel 32
  /-- The platform's parameters (00_scope.md R8; log 4). -/
  platform : Platform
  /-- Buffer memory (20_memory.md R61; log 8). -/
  mem : Memory
  /-- Buffer addresses written since the pending command was latched (20_memory.md R73; log 7). -/
  raced : List Word
  /-- The moves still to come, first one first (log 1). -/
  agenda : List Event
  /-- What the block has answered on the host bus, newest first (log 13). -/
  answers : List Answer
  /-- The buffer addresses whose byte the engine has read, newest first (20_memory.md R63; log 14). -/
  bytesRead : List Word
  /-- The counter the free values are applied to (log 6). -/
  draws : Nat
  deriving DecidableEq, Repr

/-- Faults of the model. The spec gives every event of the block an effect (an error ends a command and
the machine goes on, 60_exceptions.md R172, R178), so no step raises a fault and the type has no
constructor. -/
inductive Fault where
  deriving DecidableEq, Repr

/-- Refusals of the model. -/
inductive Refusal where
  /-- Raised by a `Dispatch.lean` arm of a command that has no meaning yet: none. Safe: it stops. -/
  | notModelled (mnemonic : String)
  /-- Raised by CALC8, CALC16 and CALC32 when a byte they read lies in a region whose reads have side
  effects: what the device does is outside what the spec defines (20_memory.md R69; 93 I11 `refuse`; log 9).
  Safe: the machine stops where a platform would go on. -/
  | sideEffectingBuffer (a : Word)
  deriving DecidableEq, Repr

/-- A channel right after reset (10_state.md R43). The stored TABLE is unspecified there (R39, D17): the 0
that stands here is never read (log 12). -/
def Channel.reset (w : Nat) : Channel w where
  poly := 0
  init := 0
  xorout := 0
  cfg := { refin := false, refout := false, dir := .left }
  tvalid := false
  tdir := .left
  tblpoly := 0
  table := Vector.replicate 256 0

/-- The platform that stands in `State.reset` (log 4): every buffer address readable, none with side
effects, RIGHT8_FOLD at the spec's default. No statement rests on it. -/
def defaultPlatform : Platform where
  base := 0
  readable := [{ base := 0, size := addressSpace }]
  right8Fold := .literal
  sideEffecting := []

/-- The machine right after reset (10_state.md R43, 70_reset_and_hazards.md R200), with nothing on the agenda. -/
def State.reset : State where
  pending := none
  err := .ok
  werr := false
  addr := 0
  len := 0
  opnd := 0
  result := 0
  faultaddr := 0
  ch8 := Channel.reset 8
  ch16 := Channel.reset 16
  ch32 := Channel.reset 32
  platform := defaultPlatform
  mem := []
  raced := []
  agenda := []
  answers := []
  bytesRead := []
  draws := 0

end Sys2Proof.Machine
end

