-- ==== Sys2Proof/Machine/Flags.lean ====
section
/-! DEFINITION. The status fields of the CRC unit as register words: STATUS, CFG and TBLSTAT. There are no
other flags and no CRC computation sets one (spec 10_state.md R42). -/

namespace Sys2Proof.Machine

/-- The code of an outcome (60_exceptions.md R170). -/
def ErrCode.code : ErrCode → BitVec 4
  | .ok => 0
  | .illegalCmd => 1
  | .noTable => 2
  | .range => 3
  | .busFault => 4

/-- Left = 0, Right = 1 (00_scope.md R17). -/
def Dir.bit : Dir → Bool
  | .left => false
  | .right => true

/-- The direction a bit stands for (00_scope.md R17). -/
def Dir.ofBit : Bool → Dir
  | false => .left
  | true => .right

/-- A bit at position i of a register word, every other bit 0. -/
def bitAt (b : Bool) (i : Nat) : Word := (BitVec.ofBool b).setWidth 32 <<< i

/-- STATUS: BUSY in bit 0, ERR in bits 7 to 4, WERR in bit 8, every other bit 0 (10_state.md R26). -/
def statusWord (busy : Bool) (err : BitVec 4) (werr : Bool) : Word :=
  bitAt busy 0 ||| err.setWidth 32 <<< 4 ||| bitAt werr 8

/-- CFG: REFIN in bit 0, REFOUT in bit 1, DIR in bit 2, every other bit 0 (10_state.md R36). -/
def Cfg.word (c : Cfg) : Word := bitAt c.refin 0 ||| bitAt c.refout 1 ||| bitAt c.dir.bit 2

/-- A write of CFG stores bits 2 to 0 (10_state.md R36). -/
def Cfg.ofWord (v : Word) : Cfg where
  refin := v.getLsbD 0
  refout := v.getLsbD 1
  dir := Dir.ofBit (v.getLsbD 2)

/-- TBLSTAT: TVALID in bit 0, TDIR in bit 2, every other bit 0 (10_state.md R37). -/
def tblstatWord (tvalid : Bool) (tdir : Dir) : Word := bitAt tvalid 0 ||| bitAt tdir.bit 2

end Sys2Proof.Machine
end

