-- ==== Sys2Proof/Machine/Ops.lean ====
section
/-! DEFINITION. The named operations over buffer memory and registers, and the end of a command: with its
result, or by raising an error (the block's whole exception mechanism; there is no return from one, spec
60_exceptions.md R178, R179). -/

namespace Sys2Proof.Machine

/-! ### Buffer memory -/

/-- The byte the list holds at an address; none at an unlisted address (log 8). -/
def Memory.read : Memory → Nat → Option Byte
  | [], _ => none
  | (a', b') :: m, a => if a = a' then some b' else Memory.read m a

/-- The list after a byte is written, its addresses still rising. -/
def Memory.write : Memory → Nat → Byte → Memory
  | [], a, b => [(a, b)]
  | (a', b') :: m, a, b =>
    if a < a' then (a, b) :: (a', b') :: m
    else if a = a' then (a, b) :: m
    else (a', b') :: Memory.write m a b

/-- The addresses of a list rise strictly from a lower bound and stay below 2^32. -/
def Memory.wfFrom : Nat → Memory → Bool
  | _, [] => true
  | lo, (a, _) :: m => lo ≤ a && a < addressSpace && Memory.wfFrom (a + 1) m

/-- The canonical form: addresses strictly rising and below 2^32 (20_memory.md R61). An unlisted address
holds no byte of the list, so there is no entry to leave out. -/
def Memory.wf (m : Memory) : Bool := Memory.wfFrom 0 m

/-- An address lies in a region. -/
def Region.holds (r : Region) (a : Nat) : Bool := r.base ≤ a && a < r.base + r.size

/-- `BUF_OK(a)` (00_scope.md R8, 20_memory.md R60). -/
def bufOk (p : Platform) (a : Word) : Bool := p.readable.any fun r => Region.holds r a.toNat

/-- A read of this address has a side effect (20_memory.md R69; log 9). -/
def readHasSideEffect (p : Platform) (a : Word) : Bool :=
  p.sideEffecting.any fun r => Region.holds r a.toNat

/-- What the engine's buffer port answers (20_memory.md R60, R69). -/
inductive ReadAnswer where
  | byte (b : Byte)
  | fault
  | sideEffect
  deriving DecidableEq, Repr

/-- `MemRead(a, 1)`, the engine's only memory access (20_memory.md R60): a fault where `BUF_OK` does not
hold; any value for a byte written while the command was pending (R73; log 7); the byte most recently
written (R72 e); the platform's own byte where nothing was written (log 8). -/
def State.memRead (s : State) (a : Word) : ReadAnswer :=
  if !bufOk s.platform a then .fault
  else if readHasSideEffect s.platform a then .sideEffect
  else if a ∈ s.raced then .byte (Config.racedByte s.draws a)
  else
    match Memory.read s.mem a.toNat with
    | some b => .byte b
    | none => .byte (Config.bufferByte a)

/-! ### Registers -/

/-- STATUS.BUSY (10_state.md R26, R41 a). -/
def State.busy (s : State) : Bool := s.pending.isSome

/-- A register write, an engine step or a reset: what a later free value gives is drawn anew (log 6). -/
def State.redraw (s : State) : State := { s with draws := s.draws + 1 }

/-- A write of CMD while BUSY = 0 latches the word and sets BUSY (10_state.md R25). No buffer byte has been
written since. -/
def State.latch (s : State) (v : Word) : State := { s with pending := some v, raced := [] }

/-- Reset (70_reset_and_hazards.md R200, R201; 10_state.md R43): every register takes its reset value and a
pending command is discarded. The platform, buffer memory and the model's records are not registers (log 19). -/
def State.resetRegisters (s : State) : State :=
  { State.reset with
    platform := s.platform
    mem := s.mem
    agenda := s.agenda
    answers := s.answers
    bytesRead := s.bytesRead
    draws := s.draws + 1 }

/-! ### The end of a command -/

/-- The end of every engine step (70_reset_and_hazards.md R204): STATUS.ERR is written, the pending command
is cleared and STATUS.BUSY is 0. -/
def State.finish (s : State) (code : ErrCode) : State :=
  { s with err := code, pending := none, raced := [], draws := s.draws + 1 }

/-- The errors a command ends with, with the value each records (60_exceptions.md R170). -/
inductive CmdError where
  | illegalCmd
  | noTable
  | range
  | busFault (a : Word)
  deriving DecidableEq, Repr

/-- The code of an error (60_exceptions.md R170). -/
def CmdError.code : CmdError → ErrCode
  | .illegalCmd => .illegalCmd
  | .noTable => .noTable
  | .range => .range
  | .busFault _ => .busFault

/-- What an error leaves in FAULTADDR: the faulting address for BUS_FAULT, else what stood there
(60_exceptions.md R172). -/
def CmdError.faultaddr (e : CmdError) (old : Word) : Word :=
  match e with
  | .busFault a => a
  | .illegalCmd | .noTable | .range => old

/-- `raise Error(code)` (60_exceptions.md R172): STATUS.ERR, for BUS_FAULT also FAULTADDR, BUSY cleared, and
nothing else. It transfers control nowhere and saves nothing else (R178). -/
def State.raise (s : State) (e : CmdError) : State :=
  ({ s with faultaddr := e.faultaddr s.faultaddr }).finish e.code

/-! ### The pending command and whose turn it is -/

/-- The engine's view of the CMD latch (70_reset_and_hazards.md R204, R210). -/
inductive Fetched where
  /-- BUSY = 0: the engine has no step. -/
  | idle
  /-- The pending word matches none of the ten commands. -/
  | illegal
  /-- The pending word is a command. -/
  | command (i : Instr)
  deriving DecidableEq, Repr

/-- What the engine finds in the CMD latch (70_reset_and_hazards.md R204; 30_encoding.md R84). -/
def State.fetched (s : State) : Fetched :=
  match s.pending with
  | none => .idle
  | some w =>
    match decode w with
    | .ok i => .command i
    | .error _ => .illegal

/-- The move that comes next: the first of the agenda, and the engine's turn when the agenda is empty
(70_reset_and_hazards.md R204, weak fairness; log 1). -/
def State.nextEvent (s : State) : Event :=
  match s.agenda with
  | [] => .engine
  | e :: _ => e

/-- The state with that move taken off the agenda. -/
def State.popEvent (s : State) : State := { s with agenda := s.agenda.tail }

/-- The engine's turn put before the other moves (log 2). -/
def State.engineNext (s : State) : State := { s with agenda := .engine :: s.agenda }

/-- The engine's turn with no command pending: the engine has no step and every register keeps its value
(70_reset_and_hazards.md R210, 60_exceptions.md R186; log 3). -/
def State.idleTurn (s : State) : Host.Outcome State Fault Refusal := .next s

/-- The engine's turn with an illegal word pending (60_exceptions.md R171). -/
def State.illegalTurn (s : State) : Host.Outcome State Fault Refusal := .next (s.raise .illegalCmd)

end Sys2Proof.Machine
end

