-- ==== Sys2Proof/Machine/Operands.lean ====
section
/-! DEFINITION. The operand forms of the commands (spec 30_encoding.md R85): the low bits of OPND, a channel's
registers, a table entry, the byte at ADDR + k, and the value RESULT receives. -/

namespace Sys2Proof.Machine

/-- OPND cut to its low N bits (10_state.md R29, 30_encoding.md R85). -/
def State.opndLow (s : State) (n : Nat) : BitVec n := s.opnd.setWidth n

/-- What RESULT receives: the value zero-extended (10_state.md R30, D26). -/
def zext32 {w : Nat} (v : BitVec w) : Word := v.setWidth 32

/-- Table entry i; i is 8 bits, so every index is in range (41_stream_reducer.md R126). -/
def tableEntry {w : Nat} (t : Table w) (i : Byte) : BitVec w := t[i.toNat]'i.isLt

/-- The top byte of a W-bit register, bits W-1 to W-8 (00_scope.md R9). -/
def topByte {w : Nat} (c : BitVec w) : Byte := c.extractLsb' (w - 8) 8

/-- The low byte of a W-bit register, bits 7 to 0 (00_scope.md R9). -/
def lowByte {w : Nat} (c : BitVec w) : Byte := c.extractLsb' 0 8

/-- The address ADDR + k; CALC has checked that it is below 2^32 (20_memory.md R62). -/
def State.bufferAddress (s : State) (k : Nat) : Word := BitVec.ofNat 32 (s.addr.toNat + k)

/-- ADDR + LEN as an exact integer exceeds 2^32 (41_stream_reducer.md R122, 60_exceptions.md R175). -/
def State.outOfRange (s : State) : Bool := s.addr.toNat + s.len.toNat > addressSpace

end Sys2Proof.Machine
end

