-- ==== Sys2Proof/Machine/BitReversal.lean ====
section
/-! DEFINITION. Bit reversal and the commands REV8, REV16, REV32 (spec 42_bit_reversal.md). -/

namespace Sys2Proof.Machine

/-- The loop of 42_bit_reversal.md R150 after its first k turns: bit i of v stands at bit w-1-i for every
i < k, and the other bits are 0. -/
def reverseLoop {w : Nat} (v : BitVec w) : Nat → BitVec w
  | 0 => 0
  | k + 1 => reverseLoop v k ||| (BitVec.ofBool (v.getLsbD k)).setWidth w <<< (w - 1 - k)

/-- `reverse_N` (42_bit_reversal.md R150, 00_scope.md R11). -/
def reverseBits {w : Nat} (v : BitVec w) : BitVec w := reverseLoop v w

/-- RESULT <- zext_32(reverse_N(OPND[N-1:0])), STATUS.ERR <- OK (42_bit_reversal.md R152 to R154). -/
def State.reverseOpnd (s : State) (n : Nat) : State :=
  ({ s with result := zext32 (reverseBits (s.opndLow n)) }).finish .ok

/-- REV8 (42_bit_reversal.md R152). -/
def execRev8 (s : State) : Host.Outcome State Fault Refusal := .next (s.reverseOpnd 8)

/-- REV16 (42_bit_reversal.md R153). -/
def execRev16 (s : State) : Host.Outcome State Fault Refusal := .next (s.reverseOpnd 16)

/-- REV32 (42_bit_reversal.md R154). -/
def execRev32 (s : State) : Host.Outcome State Fault Refusal := .next (s.reverseOpnd 32)

end Sys2Proof.Machine
end

