-- ==== Sys2Proof/Machine/Nop.lean ====
section
/-! DEFINITION. NOP (spec 43_nop.md). -/

namespace Sys2Proof.Machine

/-- NOP: STATUS.ERR <- OK, and the end of the engine step (43_nop.md R165). -/
def execNop (s : State) : Host.Outcome State Fault Refusal := .next (s.finish .ok)

end Sys2Proof.Machine
end

