-- ==== Sys2Proof/Machine/StreamReducer.lean ====
section
/-! DEFINITION. The Stream Reducer and the commands CALC8, CALC16, CALC32 (spec 41_stream_reducer.md). -/

namespace Sys2Proof.Machine

/-! ### The per-byte step -/

/-- `Step(8, T, dir, c, b)` (41_stream_reducer.md R123, R125): the spec gives the width-8 forms of their own,
and for Right mode both values of `RIGHT8_FOLD` (conflict C1). -/
def step8 (fold : Right8Fold) (t : Table 8) (dir : Dir) (c : BitVec 8) (b : Byte) : BitVec 8 :=
  match dir with
  | .left => tableEntry t (c ^^^ b)
  | .right =>
    match fold with
    | .literal => tableEntry t (c ^^^ b) ^^^ c
    | .generic => tableEntry t (c ^^^ b)

/-- Left mode, widths 16 and 32 (41_stream_reducer.md R123). -/
def stepLeft {w : Nat} (t : Table w) (c : BitVec w) (b : Byte) : BitVec w :=
  (c <<< 8) ^^^ tableEntry t (topByte c ^^^ b)

/-- Right mode, widths 16 and 32 (41_stream_reducer.md R124). -/
def stepRight {w : Nat} (t : Table w) (c : BitVec w) (b : Byte) : BitVec w :=
  tableEntry t (lowByte c ^^^ b) ^^^ (c >>> 8)

/-- `Step(W, T, dir, c, b)` for W = 16 and W = 32 (41_stream_reducer.md R123, R124). -/
def stepWide {w : Nat} (t : Table w) (dir : Dir) (c : BitVec w) (b : Byte) : BitVec w :=
  match dir with
  | .left => stepLeft t c b
  | .right => stepRight t c b

/-! ### The fold -/

/-- Input reflection, always of 8 bits (41_stream_reducer.md R120, step 2a). -/
def inputByte (refin : Bool) (b : Byte) : Byte := if refin then reverseBits b else b

/-- How reading and folding the buffer ends; the list is the engine's record of the bytes it has read. -/
inductive FoldEnd (w : Nat) where
  /-- Every byte was read: register c. -/
  | done (c : BitVec w) (log : List Word)
  /-- The read at this address faulted (60_exceptions.md R174). -/
  | busFault (a : Word) (log : List Word)
  /-- The read at this address would have a side effect (20_memory.md R69). -/
  | sideEffect (a : Word)
  deriving DecidableEq, Repr

/-- The loop of 41_stream_reducer.md R120 over the n bytes from buffer offset k on: each is read once, in
increasing order, and folded before the next is read (20_memory.md R63). -/
def State.foldBytes {w : Nat} (s : State) (refin : Bool) (stp : BitVec w → Byte → BitVec w) :
    Nat → Nat → BitVec w → List Word → FoldEnd w
  | 0, _, c, log => .done c log
  | n + 1, k, c, log =>
    match s.memRead (s.bufferAddress k) with
    | .byte b =>
      s.foldBytes refin stp n (k + 1) (stp c (inputByte refin b)) (s.bufferAddress k :: log)
    | .fault => .busFault (s.bufferAddress k) log
    | .sideEffect => .sideEffect (s.bufferAddress k)

/-- Steps 3 to 5 of 41_stream_reducer.md R120: the final XOR, then output reflection (R127). -/
def Channel.finalValue {w : Nat} (ch : Channel w) (c : BitVec w) : BitVec w :=
  if ch.cfg.refout then reverseBits (c ^^^ ch.xorout) else c ^^^ ch.xorout

/-- A CALC of channel `ch` with its step function: the checks of 41_stream_reducer.md R122 in their order, the
fold, and RESULT; an error leaves RESULT as it was and keeps only the reads already made (60_exceptions.md
R172, R134). -/
def State.calc {w : Nat} (s : State) (ch : Channel w) (stp : BitVec w → Byte → BitVec w) :
    Host.Outcome State Fault Refusal :=
  if !ch.tvalid then .next (s.raise .noTable)
  else if s.outOfRange then .next (s.raise .range)
  else
    match s.foldBytes ch.cfg.refin stp s.len.toNat 0 ch.init s.bytesRead with
    | .done c log =>
      .next (({ s with result := zext32 (ch.finalValue c), bytesRead := log }).finish .ok)
    | .busFault a log => .next (({ s with bytesRead := log }).raise (.busFault a))
    | .sideEffect a => .refused (.sideEffectingBuffer a)

/-- CALC8 (41_stream_reducer.md R130): the direction is the table's, TDIR (R121). -/
def execCalc8 (s : State) : Host.Outcome State Fault Refusal :=
  s.calc s.ch8 (step8 s.platform.right8Fold s.ch8.table s.ch8.tdir)

/-- CALC16 (41_stream_reducer.md R131). -/
def execCalc16 (s : State) : Host.Outcome State Fault Refusal :=
  s.calc s.ch16 (stepWide s.ch16.table s.ch16.tdir)

/-- CALC32 (41_stream_reducer.md R132). -/
def execCalc32 (s : State) : Host.Outcome State Fault Refusal :=
  s.calc s.ch32 (stepWide s.ch32.table s.ch32.tdir)

end Sys2Proof.Machine
end

