-- ==== Sys2Proof/Machine/TableBuilder.lean ====
section
/-! DEFINITION. The Table Builder and the commands MKTBL8, MKTBL16, MKTBL32 (spec 40_table_builder.md). -/

namespace Sys2Proof.Machine

/-- One of the 8 steps of 40_table_builder.md R100; the bit tested is the bit before the shift. -/
def builderStep {w : Nat} (poly : BitVec w) (dir : Dir) (r : BitVec w) : BitVec w :=
  match dir with
  | .left => if r.getLsbD (w - 1) then (r <<< 1) ^^^ poly else r <<< 1
  | .right => if r.getLsbD 0 then (r >>> 1) ^^^ poly else r >>> 1

/-- k steps, one after the other. -/
def builderSteps {w : Nat} (poly : BitVec w) (dir : Dir) : Nat → BitVec w → BitVec w
  | 0, r => r
  | k + 1, r => builderSteps poly dir k (builderStep poly dir r)

/-- The seed of entry i: i in the top byte for Left (40_table_builder.md R101), in the low byte for Right
(R102). -/
def builderSeed {w : Nat} (dir : Dir) (i : Byte) : BitVec w :=
  match dir with
  | .left => i.setWidth w <<< (w - 8)
  | .right => i.setWidth w

/-- Entry i of `BuildTable` (40_table_builder.md R100). -/
def builderEntry {w : Nat} (poly : BitVec w) (dir : Dir) (i : Byte) : BitVec w :=
  builderSteps poly dir 8 (builderSeed dir i)

/-- `BuildTable(W, poly, dir)` (40_table_builder.md R100): the entries of i = 0, 1, ..., 255 in order. -/
def buildTable {w : Nat} (poly : BitVec w) (dir : Dir) : Table w :=
  ⟨((List.range 256).map fun i => builderEntry poly dir (BitVec.ofNat 8 i)).toArray, by simp⟩

/-- The channel after MKTBL: the whole table and the binding, in one step (40_table_builder.md R104 to
R106; 10_state.md R33). The polynomial is used as stored (R102). -/
def Channel.build {w : Nat} (c : Channel w) : Channel w :=
  { c with
    table := buildTable c.poly c.cfg.dir
    tblpoly := c.poly
    tdir := c.cfg.dir
    tvalid := true }

/-- MKTBL8 (40_table_builder.md R104). -/
def execMktbl8 (s : State) : Host.Outcome State Fault Refusal :=
  .next (({ s with ch8 := s.ch8.build }).finish .ok)

/-- MKTBL16 (40_table_builder.md R105). -/
def execMktbl16 (s : State) : Host.Outcome State Fault Refusal :=
  .next (({ s with ch16 := s.ch16.build }).finish .ok)

/-- MKTBL32 (40_table_builder.md R106). -/
def execMktbl32 (s : State) : Host.Outcome State Fault Refusal :=
  .next (({ s with ch32 := s.ch32.build }).finish .ok)

end Sys2Proof.Machine
end

