-- ==== Sys2Proof/Machine/Dispatch.lean ====
section
/-! DEFINITION. One arm per command (spec 30_encoding.md R83). -/

namespace Sys2Proof.Machine

def exec (i : Instr) (s : State) : Host.Outcome State Fault Refusal :=
  match i with
  | .nop => Sys2Proof.Machine.execNop s
  | .mktbl8 => Sys2Proof.Machine.execMktbl8 s
  | .mktbl16 => Sys2Proof.Machine.execMktbl16 s
  | .mktbl32 => Sys2Proof.Machine.execMktbl32 s
  | .calc8 => Sys2Proof.Machine.execCalc8 s
  | .calc16 => Sys2Proof.Machine.execCalc16 s
  | .calc32 => Sys2Proof.Machine.execCalc32 s
  | .rev8 => Sys2Proof.Machine.execRev8 s
  | .rev16 => Sys2Proof.Machine.execRev16 s
  | .rev32 => Sys2Proof.Machine.execRev32 s

end Sys2Proof.Machine
end

