-- ==== Sys2Proof/Machine/RegisterMap.lean ====
section
/-! DEFINITION. The register map of the CRC unit: offsets of registers, and the register at an offset (spec
10_state.md R23). -/

namespace Sys2Proof.Machine

/-- CB(n) (10_state.md R23). -/
def channelBase : Width → Nat
  | .w8 => 0x1000
  | .w16 => 0x2000
  | .w32 => 0x3000

/-- The offset of a channel register from CB(n) (10_state.md R23). -/
def chanRegOffset : ChanReg → Nat
  | .poly => 0x000
  | .init => 0x004
  | .xorout => 0x008
  | .cfg => 0x00C
  | .tblstat => 0x010
  | .tblpoly => 0x014
  | .table i => 0x400 + 4 * i.toNat

/-- The offset of a register from BASE (10_state.md R23). -/
def regOffset : Reg → Nat
  | .cmd => 0x000
  | .status => 0x004
  | .addr => 0x008
  | .len => 0x00C
  | .opnd => 0x010
  | .result => 0x014
  | .faultaddr => 0x018
  | .chan n r => channelBase n + chanRegOffset r

/-- The shared register at an offset below 0x1000; none at a reserved offset. -/
def sharedRegAt : Nat → Option Reg
  | 0x000 => some .cmd
  | 0x004 => some .status
  | 0x008 => some .addr
  | 0x00C => some .len
  | 0x010 => some .opnd
  | 0x014 => some .result
  | 0x018 => some .faultaddr
  | _ => none

/-- The channel register at an offset below 0x400 from CB(n); none at a reserved offset. -/
def chanScalarAt : Nat → Option ChanReg
  | 0x000 => some .poly
  | 0x004 => some .init
  | 0x008 => some .xorout
  | 0x00C => some .cfg
  | 0x010 => some .tblstat
  | 0x014 => some .tblpoly
  | _ => none

/-- The channel register at an offset below 0x1000 from CB(n) that is a multiple of 4; none at a reserved
offset. -/
def chanRegAt (o : Nat) : Option ChanReg :=
  if o < 0x400 then chanScalarAt o
  else if o < 0x800 then some (.table (BitVec.ofNat 8 ((o - 0x400) / 4)))
  else none

/-- The register at an offset that is a multiple of 4; none at a reserved offset (10_state.md R23, R40). -/
def regAt (off : Nat) : Option Reg :=
  match off / 0x1000 with
  | 0 => sharedRegAt off
  | 1 => (chanRegAt (off % 0x1000)).map (Reg.chan .w8)
  | 2 => (chanRegAt (off % 0x1000)).map (Reg.chan .w16)
  | 3 => (chanRegAt (off % 0x1000)).map (Reg.chan .w32)
  | _ => none

end Sys2Proof.Machine
end

