-- ==== Sys2Proof/Machine/HostPort.lean ====
section
/-! DEFINITION. The host's side of the block: register reads and writes, the bus access around them, and the
other moves of the world (spec 10_state.md R24 to R40, 20_memory.md R66 to R73, 70_reset_and_hazards.md R200,
R211, R212). -/

namespace Sys2Proof.Machine

/-! ### Reads -/

/-- The value of a channel register (10_state.md R32 to R39): W-bit values zero-extended. -/
def Channel.regValue {w : Nat} (c : Channel w) : ChanReg → Word
  | .poly => zext32 c.poly
  | .init => zext32 c.init
  | .xorout => zext32 c.xorout
  | .cfg => c.cfg.word
  | .tblstat => tblstatWord c.tvalid c.tdir
  | .tblpoly => zext32 c.tblpoly
  | .table i => zext32 (tableEntry c.table i)

/-- The stored value of a register (10_state.md R24 to R39); CMD stores nothing readable (R25). -/
def State.regValue (s : State) : Reg → Word
  | .cmd => 0
  | .status => statusWord s.busy s.err.code s.werr
  | .addr => s.addr
  | .len => s.len
  | .opnd => s.opnd
  | .result => s.result
  | .faultaddr => s.faultaddr
  | .chan .w8 r => s.ch8.regValue r
  | .chan .w16 r => s.ch16.regValue r
  | .chan .w32 r => s.ch32.regValue r

/-- The MKTBL command of a channel. -/
def mktblOf : Width → Instr
  | .w8 => .mktbl8
  | .w16 => .mktbl16
  | .w32 => .mktbl32

/-- TVALID of a channel. -/
def State.tvalid (s : State) : Width → Bool
  | .w8 => s.ch8.tvalid
  | .w16 => s.ch16.tvalid
  | .w32 => s.ch32.tvalid

/-- A read of a channel register gives any value: of what a pending MKTBL of the channel may write
(70_reset_and_hazards.md R211), and of a TABLE that no MKTBL has built since reset (10_state.md R39). -/
def State.chanReadIsFree (s : State) (n : Width) : ChanReg → Bool
  | .poly | .init | .xorout | .cfg => false
  | .tblstat | .tblpoly => s.fetched == .command (mktblOf n)
  | .table _ => s.fetched == .command (mktblOf n) || !s.tvalid n

/-- A read of the register gives any 32-bit value (70_reset_and_hazards.md R211, 10_state.md R39; log 5).
STATUS is not among them: only its ERR field is free while BUSY. -/
def State.readIsFree (s : State) : Reg → Bool
  | .cmd | .status | .addr | .len | .opnd => false
  | .result | .faultaddr => s.busy
  | .chan n r => s.chanReadIsFree n r

/-- The ERR field a read of STATUS returns: while BUSY = 1 any value (70_reset_and_hazards.md R211). -/
def State.readErr (s : State) : BitVec 4 :=
  if s.busy then (Config.freeRead s.draws (regOffset .status)).extractLsb' 4 4 else s.err.code

/-- What a host read of a register returns (10_state.md R24; 70_reset_and_hazards.md R211). -/
def State.readReg (s : State) (r : Reg) : Word :=
  if s.readIsFree r then Config.freeRead s.draws (regOffset r)
  else
    match r with
    | .status => statusWord s.busy s.readErr s.werr
    | r => s.regValue r

/-- What a host read at an offset returns; a reserved offset reads 0 (10_state.md R40). -/
def State.hostLoad (s : State) (off : Nat) : Word :=
  match regAt off with
  | none => 0
  | some r => s.readReg r

/-! ### Writes -/

/-- A write of a channel register stores its writable bits; TBLSTAT, TBLPOLY and TABLE ignore it (10_state.md
R32 to R39). -/
def Channel.store {w : Nat} (c : Channel w) (r : ChanReg) (v : Word) : Channel w :=
  match r with
  | .poly => { c with poly := v.setWidth w }
  | .init => { c with init := v.setWidth w }
  | .xorout => { c with xorout := v.setWidth w }
  | .cfg => { c with cfg := Cfg.ofWord v }
  | .tblstat | .tblpoly | .table _ => c

/-- An accepted write of a register (10_state.md R25 to R39). STATUS: bit 8 = 1 clears WERR (R26). -/
def State.writeReg (s : State) (r : Reg) (v : Word) : State :=
  match r with
  | .cmd => s.latch v
  | .status => if v.getLsbD 8 then { s with werr := false } else s
  | .addr => { s with addr := v }
  | .len => { s with len := v }
  | .opnd => { s with opnd := v }
  | .result | .faultaddr => s
  | .chan .w8 r => { s with ch8 := s.ch8.store r v }
  | .chan .w16 r => { s with ch16 := s.ch16.store r v }
  | .chan .w32 r => { s with ch32 := s.ch32.store r v }

/-- A host write at an offset: while BUSY = 1 every write but one of STATUS is refused and sets WERR, at
reserved and read-only offsets too (70_reset_and_hazards.md R212, 10_state.md R40). -/
def State.hostStore (s : State) (off : Nat) (v : Word) : State :=
  if s.busy && regAt off != some .status then { s with werr := true }
  else
    match regAt off with
    | none => s
    | some r => s.writeReg r v

/-! ### The bus access -/

/-- The offset of a bus address in the block's window; none outside it (10_state.md R23; log 11). -/
def windowOffset (p : Platform) (busAddr : Nat) : Option Nat :=
  if p.base ≤ busAddr ∧ busAddr < p.base + windowSize then some (busAddr - p.base) else none

/-- Only aligned 32-bit accesses are defined (20_memory.md R66). -/
def accessOk (off bits : Nat) : Bool := bits == 32 && off % 4 == 0

/-- The block's answer is recorded (log 13). -/
def State.answer (s : State) (a : Answer) : State := { s with answers := a :: s.answers }

/-- A host read: no side effect on the block (20_memory.md R68). -/
def State.hostRead (s : State) (busAddr bits : Nat) : State :=
  match windowOffset s.platform busAddr with
  | none => s.answer .notSelected
  | some off =>
    if accessOk off bits then s.answer (.data (s.hostLoad off)) else s.answer .busError

/-- A host write. -/
def State.hostWrite (s : State) (busAddr bits : Nat) (v : Word) : State :=
  match windowOffset s.platform busAddr with
  | none => s.answer .notSelected
  | some off =>
    if accessOk off bits then ((s.hostStore off v).redraw).answer .written else s.answer .busError

/-- Any agent writes a byte of buffer memory; while a command is pending the byte is raced (20_memory.md R72 e,
R73; log 7, log 17). -/
def State.bufferWrite (s : State) (a : Word) (b : Byte) : State :=
  { s with
    mem := Memory.write s.mem a.toNat b
    raced := if s.busy && !s.raced.contains a then a :: s.raced else s.raced }

/-- A move of the world around the engine. The engine's turn is not one (`Step.lean` runs it). -/
def State.worldMove (s : State) (e : Event) : Host.Outcome State Fault Refusal :=
  match e with
  | .engine => s.idleTurn
  | .hostRead a bits => .next (s.hostRead a bits)
  | .hostWrite a bits v => .next (s.hostWrite a bits v)
  | .bufferWrite a b => .next (s.bufferWrite a b)
  | .reset => .next s.resetRegisters

end Sys2Proof.Machine
end

