-- ==== Sys2Proof/Machine/Step.lean ====
section
/-! DEFINITION. One step of the machine: the next move of the agenda, or the engine's turn when the agenda is
empty (spec 10_state.md R22; 70_reset_and_hazards.md R204, R210; log 1). -/

namespace Sys2Proof.Machine

/-- The engine's turn (70_reset_and_hazards.md R204, R210): the command's rule, ILLEGAL_CMD for an illegal
word (60_exceptions.md R171), and nothing at all when no command is pending (log 3). -/
def State.engineTurn (s : State) : Host.Outcome State Fault Refusal :=
  match s.fetched with
  | .idle => s.idleTurn
  | .illegal => s.illegalTurn
  | .command i => exec i s

/-- One move. -/
def State.move (s : State) (e : Event) : Host.Outcome State Fault Refusal :=
  match e with
  | .engine => s.engineTurn
  | .hostRead _ _ | .hostWrite _ _ _ | .bufferWrite _ _ | .reset => s.worldMove e

/-- One step: the next move, taken off the agenda. -/
def step (s : State) : Host.Outcome State Fault Refusal := s.popEvent.move s.nextEvent

/-- The machine with a table row's word latched in CMD, as R25's write leaves it, and the engine's turn next
(log 2): the very next step runs exactly that command. -/
def State.withFetchWord (s : State) (nbits w : Nat) : State := (s.latch (tableWord nbits w)).engineNext

end Sys2Proof.Machine
end

