-- ==== Sys2Proof/Machine/HostProgram.lean ====
section
/-! DEFINITION. Assembler syntax and host programs: mnemonics and aliases, the lines of a host program, the
pseudo-instructions and the source's calling sequence, and the agenda events a line stands for (spec
30_encoding.md R87 to R90; log 21). -/

namespace Sys2Proof.Machine

/-- The mnemonic of a command (30_encoding.md R83, R87). -/
def mnemonic : Instr → String
  | .nop => "NOP"
  | .mktbl8 => "MKTBL8"
  | .mktbl16 => "MKTBL16"
  | .mktbl32 => "MKTBL32"
  | .calc8 => "CALC8"
  | .calc16 => "CALC16"
  | .calc32 => "CALC32"
  | .rev8 => "REV8"
  | .rev16 => "REV16"
  | .rev32 => "REV32"

/-- The command a mnemonic or a function name of the repository stands for (30_encoding.md R87). -/
def commandOfName (name : String) : Option Instr :=
  if name = "NOP" then some .nop
  else if name = "MKTBL8" ∨ name = "Make_CRC8Table" then some .mktbl8
  else if name = "MKTBL16" ∨ name = "Make_CRC16Table" then some .mktbl16
  else if name = "MKTBL32" ∨ name = "Make_CRC32Table" then some .mktbl32
  else if name = "CALC8" ∨ name = "Calc_CRC8" then some .calc8
  else if name = "CALC16" ∨ name = "Calc_CRC16" then some .calc16
  else if name = "CALC32" ∨ name = "Calc_CRC32" then some .calc32
  else if name = "REV8" ∨ name = "reverse8" then some .rev8
  else if name = "REV16" ∨ name = "reverse16" then some .rev16
  else if name = "REV32" ∨ name = "reverse32" then some .rev32
  else none

/-- The width suffix of a channel's register names (30_encoding.md R88). -/
def widthSuffix : Width → String
  | .w8 => "8"
  | .w16 => "16"
  | .w32 => "32"

/-- The name of a register in a host program (30_encoding.md R88). -/
def regName : Reg → String
  | .cmd => "CMD"
  | .status => "STATUS"
  | .addr => "ADDR"
  | .len => "LEN"
  | .opnd => "OPND"
  | .result => "RESULT"
  | .faultaddr => "FAULTADDR"
  | .chan n .poly => "POLY" ++ widthSuffix n
  | .chan n .init => "INIT" ++ widthSuffix n
  | .chan n .xorout => "XOROUT" ++ widthSuffix n
  | .chan n .cfg => "CFG" ++ widthSuffix n
  | .chan n .tblstat => "TBLSTAT" ++ widthSuffix n
  | .chan n .tblpoly => "TBLPOLY" ++ widthSuffix n
  | .chan n (.table i) => "TABLE" ++ widthSuffix n ++ "[" ++ toString i.toNat ++ "]"

/-- The encoding of a line: the offset it accesses, and the value if it is a write; none for the host's own
lines (30_encoding.md R88). -/
def lineEncoding : HostLine → Option (Nat × Option Word)
  | .wr r v => some (regOffset r, some v)
  | .rd r => some (regOffset r, none)
  | .cmd i => some (regOffset .cmd, some (encode i))
  | .label _ => none
  | .busy _ => none

/-- `BUSY <label>` continues at the label exactly when bit 0 of the preceding `RD STATUS` is 1
(30_encoding.md R88). -/
def busyTaken (statusRead : Word) : Bool := statusRead.getLsbD 0

/-- The host access of a line, on a block at `base`. -/
def lineEvents (base : Nat) (l : HostLine) : List Event :=
  match lineEncoding l with
  | some (off, some v) => [.hostWrite (base + off) 32 v]
  | some (off, none) => [.hostRead (base + off) 32]
  | none => []

/-- The accesses of straight-line host code, in order. -/
def linesEvents (base : Nat) (ls : List HostLine) : List Event := ls.flatMap (lineEvents base)

/-! ### Pseudo-instructions (30_encoding.md R89) -/

/-- `WAIT`, with the fresh label l. -/
def waitLines (l : String) : List HostLine := [.label l, .rd .status, .busy l]

/-- `SETUPw poly, init, xorout, cfg`. -/
def setupLines (n : Width) (poly init xorout cfg : Word) : List HostLine :=
  [.wr (.chan n .poly) poly, .wr (.chan n .init) init, .wr (.chan n .xorout) xorout,
    .wr (.chan n .cfg) cfg]

/-- The MKTBL, CALC and REV command of a width (30_encoding.md R82, R83). -/
def buildCommand : Width → Instr := classCommand .mktbl

/-- CALCw. -/
def calcCommand : Width → Instr := classCommand .calc

/-- REVn. -/
def revCommand : Width → Instr := classCommand .rev

/-- `BUILDw`. -/
def buildLines (n : Width) (l : String) : List HostLine := .cmd (buildCommand n) :: waitLines l

/-- `CRCw addr, len`. -/
def crcLines (n : Width) (addr len : Word) (l : String) : List HostLine :=
  [.wr .addr addr, .wr .len len, .cmd (calcCommand n)] ++ waitLines l ++ [.rd .result]

/-- `REVERSEn v`. -/
def reverseLines (n : Width) (v : Word) (l : String) : List HostLine :=
  [.wr .opnd v, .cmd (revCommand n)] ++ waitLines l ++ [.rd .result]

/-- `build_table(polynomial, shift_direction)` (30_encoding.md R90): CFG is `shift_direction << 2` with the
reflection bits. -/
def buildTableLines (n : Width) (poly : Word) (right : Bool) (reflect : BitVec 2) (l : String) : List HostLine :=
  [.wr (.chan n .poly) poly,
    .wr (.chan n .cfg) ((BitVec.ofBool right).setWidth 32 <<< 2 ||| reflect.setWidth 32)] ++ buildLines n l

/-- `crc(buffer, length, config)` (30_encoding.md R90). -/
def crcCallLines (n : Width) (init xorout cfg addr len : Word) (l : String) : List HostLine :=
  [.wr (.chan n .init) init, .wr (.chan n .xorout) xorout, .wr (.chan n .cfg) cfg] ++ crcLines n addr len l

/-! ### Runs of WAIT on the agenda -/

/-- The moves of one run of `WAIT` whose poll finds BUSY = 1 `polls` times before the engine's step: the
length of the BUSY interval is unspecified (70_reset_and_hazards.md R220), so every number of polls is a run
(log 21). -/
def waitEvents (base polls : Nat) : List Event :=
  List.replicate polls (.hostRead (base + regOffset .status) 32) ++
    [.engine, .hostRead (base + regOffset .status) 32]

end Sys2Proof.Machine
end

