-- ==== Sys2Proof/WellFormed.lean ====
section
/-! DEFINITION. Well-formedness. A command has no operand field (spec 30_encoding.md R85), so every
`Instr` is well formed; what can be ill formed is the triple of fields of a command word (R80 to R82, R86). -/

namespace Sys2Proof

/-- Commands have no operand, so no command is ill formed (30_encoding.md R85). -/
def Instr.wf : Instr → Bool
  | .nop | .mktbl8 | .mktbl16 | .mktbl32 | .calc8 | .calc16 | .calc32 | .rev8 | .rev16 | .rev32 => true

/-- Z must be 0 (30_encoding.md R80). -/
def CmdFields.zOk (f : CmdFields) : Bool := f.z == 0

/-- CLS values 0x4 to 0xF are reserved (30_encoding.md R81). -/
def CmdFields.clsOk (f : CmdFields) : Bool := f.cls.toNat ≤ 3

/-- WC is 0 for NOP and 1, 2 or 3 for every other class (30_encoding.md R82). -/
def CmdFields.wcOk (f : CmdFields) : Bool :=
  if f.cls = 0 then f.wc == 0 else 1 ≤ f.wc.toNat && f.wc.toNat ≤ 3

/-- The fields of a legal command word (30_encoding.md R86). -/
def CmdFields.wf (f : CmdFields) : Bool := f.zOk && f.clsOk && f.wcOk

end Sys2Proof
end

