-- ==== Sys2Proof/Safety.lean ====
section
/-! DEFINITION. The terms the statements use: the invariant every step keeps, what a command leaves unchanged,
what reset leaves, the checksum of a byte string, and the host that waits (spec 70_reset_and_hazards.md
R215). -/

namespace Sys2Proof.Machine

/-! ### The invariant -/

/-- A channel's table is the one its binding names (10_state.md R33, R39), and a channel no MKTBL has built since
reset still has the binding registers of reset (R37, R38, R43). -/
def Channel.BindingOk {w : Nat} (c : Channel w) : Prop :=
  if c.tvalid then c.table = buildTable c.tblpoly c.tdir
  else c.tblpoly = 0 ∧ c.tdir = .left

/-- The invariant of the machine: buffer memory is in canonical form, every table agrees with its binding,
and bytes are raced only while a command is pending (20_memory.md R73). -/
structure State.Inv (s : State) : Prop where
  mem : Memory.wf s.mem
  bind8 : s.ch8.BindingOk
  bind16 : s.ch16.BindingOk
  bind32 : s.ch32.BindingOk
  raced : s.pending = none → s.raced = []

/-! ### Frames -/

/-- The four configuration registers of a channel are the same (10_state.md R32, R34 to R36). -/
structure Channel.SameConfig {w : Nat} (c c' : Channel w) : Prop where
  poly : c'.poly = c.poly
  init : c'.init = c.init
  xorout : c'.xorout = c.xorout
  cfg : c'.cfg = c.cfg

/-- The table and its binding are the same (10_state.md R33, R37 to R39). -/
structure Channel.SameBinding {w : Nat} (c c' : Channel w) : Prop where
  tvalid : c'.tvalid = c.tvalid
  tdir : c'.tdir = c.tdir
  tblpoly : c'.tblpoly = c.tblpoly
  table : ∀ i : Byte, tableEntry c'.table i = tableEntry c.table i

/-- Channel n's table and binding are the same. -/
def State.SameBinding (s t : State) : Width → Prop
  | .w8 => s.ch8.SameBinding t.ch8
  | .w16 => s.ch16.SameBinding t.ch16
  | .w32 => s.ch32.SameBinding t.ch32

/-- What no command changes: WERR, ADDR, LEN, OPND, every channel's POLY, INIT, XOROUT and CFG, the platform,
every byte of buffer memory, the moves still to come and the answers given. -/
structure State.CommandFrame (s t : State) : Prop where
  werr : t.werr = s.werr
  addr : t.addr = s.addr
  len : t.len = s.len
  opnd : t.opnd = s.opnd
  conf8 : s.ch8.SameConfig t.ch8
  conf16 : s.ch16.SameConfig t.ch16
  conf32 : s.ch32.SameConfig t.ch32
  platform : t.platform = s.platform
  mem : ∀ a, Memory.read t.mem a = Memory.read s.mem a
  agenda : t.agenda = s.agenda
  answers : t.answers = s.answers

/-- A command ended with this code: STATUS.ERR is the code, STATUS.BUSY is 0, and nothing that no command writes
has changed. -/
structure State.Ends (s t : State) (code : ErrCode) : Prop where
  err : t.err = code
  busy : t.busy = false
  frame : s.CommandFrame t

/-- No channel's table or binding has changed. -/
def State.SameBindings (s t : State) : Prop := ∀ n, s.SameBinding t n

/-- A channel after MKTBL: every entry is the builder's, from POLY as stored and CFG.DIR, and the binding says
so (40_table_builder.md R104 to R106). -/
structure Channel.BuiltFrom {w : Nat} (c c' : Channel w) : Prop where
  table : ∀ i : Byte, tableEntry c'.table i = builderEntry c.poly c.cfg.dir i
  tblpoly : c'.tblpoly = c.poly
  tdir : c'.tdir = c.cfg.dir
  tvalid : c'.tvalid = true

/-- Channel n has been built. -/
def State.Built (s t : State) : Width → Prop
  | .w8 => s.ch8.BuiltFrom t.ch8
  | .w16 => s.ch16.BuiltFrom t.ch16
  | .w32 => s.ch32.BuiltFrom t.ch32

/-! ### The checksum of a byte string -/

/-- 41_stream_reducer.md R120 over the bytes bs with a given step: reflect each byte if REFIN, fold in order
from INIT, XOR with XOROUT, reflect if REFOUT, zero-extend. -/
def foldWord {w : Nat} (ch : Channel w) (stp : BitVec w → Byte → BitVec w) (bs : List Byte) : Word :=
  let c := (if ch.cfg.refin then bs.map reverseBits else bs).foldl stp ch.init
  zext32 (if ch.cfg.refout then reverseBits (c ^^^ ch.xorout) else c ^^^ ch.xorout)

/-- What CALC of channel n leaves in RESULT over the bytes bs (41_stream_reducer.md R130 to R132): the direction is
TDIR (R121), the width-8 Right form is RIGHT8_FOLD's (R125). -/
def State.checksumWord (s : State) : Width → List Byte → Word
  | .w8 => foldWord s.ch8 (step8 s.platform.right8Fold s.ch8.table s.ch8.tdir)
  | .w16 => foldWord s.ch16 (stepWide s.ch16.table s.ch16.tdir)
  | .w32 => foldWord s.ch32 (stepWide s.ch32.table s.ch32.tdir)

/-- The bytes bs stand, readable, at ADDR, ADDR + 1 and so on (20_memory.md R60, R62). -/
def State.BufferHolds (s : State) (bs : List Byte) : Prop :=
  ∀ k (hk : k < bs.length), s.memRead (BitVec.ofNat 32 (s.addr.toNat + k)) = .byte bs[k]

/-- The addresses of the first n bytes of the buffer, the last one first. -/
def State.addressesRead (s : State) (n : Nat) : List Word :=
  ((List.range n).map fun k => BitVec.ofNat 32 (s.addr.toNat + k)).reverse

/-- What CALC reads of a channel is the same (41_stream_reducer.md R129): the table, TVALID, TDIR, INIT, XOROUT, REFIN,
REFOUT. POLY, CFG.DIR and TBLPOLY are not among them. -/
structure Channel.SameFold {w : Nat} (c c' : Channel w) : Prop where
  table : ∀ i : Byte, tableEntry c'.table i = tableEntry c.table i
  tvalid : c'.tvalid = c.tvalid
  tdir : c'.tdir = c.tdir
  init : c'.init = c.init
  xorout : c'.xorout = c.xorout
  refin : c'.cfg.refin = c.cfg.refin
  refout : c'.cfg.refout = c.cfg.refout

/-- What CALC reads of channel n is the same. -/
def State.SameFold (s t : State) : Width → Prop
  | .w8 => s.ch8.SameFold t.ch8
  | .w16 => s.ch16.SameFold t.ch16
  | .w32 => s.ch32.SameFold t.ch32

/-! ### Reset -/

/-- A channel's registers right after reset, TABLE apart (10_state.md R43). -/
structure Channel.AfterReset {w : Nat} (c : Channel w) : Prop where
  poly : c.poly = 0
  init : c.init = 0
  xorout : c.xorout = 0
  cfg : c.cfg = { refin := false, refout := false, dir := .left }
  tvalid : c.tvalid = false
  tdir : c.tdir = .left
  tblpoly : c.tblpoly = 0

/-- The registers right after reset (10_state.md R43): no command is pending, STATUS = 0, every shared register
is 0, every channel is as `Channel.AfterReset` says, and a read of a TABLE entry gives a free value. -/
structure State.AfterReset (s : State) : Prop where
  pending : s.pending = none
  status : s.hostLoad 0x004 = 0
  addr : s.addr = 0
  len : s.len = 0
  opnd : s.opnd = 0
  result : s.result = 0
  faultaddr : s.faultaddr = 0
  ch8 : s.ch8.AfterReset
  ch16 : s.ch16.AfterReset
  ch32 : s.ch32.AfterReset
  table : ∀ n i, s.readReg (.chan n (.table i)) = Config.freeRead s.draws (regOffset (.chan n (.table i)))

/-! ### Host writes -/

/-- The bits a host write stores of a read/write register that holds nothing but what is written to it
(10_state.md R23); none for the others. -/
def writableBits : Reg → Option Word
  | .addr | .len | .opnd => some 0xFFFFFFFF
  | .chan n .poly | .chan n .init | .chan n .xorout => some (BitVec.ofNat 32 (2 ^ n.bits - 1))
  | .chan _ .cfg => some 0x7
  | .cmd | .status | .result | .faultaddr => none
  | .chan _ .tblstat | .chan _ .tblpoly | .chan _ (.table _) => none

/-- A channel register holds what a write of v stores: v cut to W bits, and for CFG bits 0, 1 and 2 (10_state.md R32,
R34 to R36). The other registers store nothing, and nothing is said of them. -/
def Channel.Stored {w : Nat} (c : Channel w) (r : ChanReg) (v : Word) : Prop :=
  match r with
  | .poly => c.poly.toNat = v.toNat % 2 ^ w
  | .init => c.init.toNat = v.toNat % 2 ^ w
  | .xorout => c.xorout.toNat = v.toNat % 2 ^ w
  | .cfg => c.cfg.refin = v.getLsbD 0 ∧ c.cfg.refout = v.getLsbD 1 ∧
      c.cfg.dir = (if v.getLsbD 2 then .right else .left)
  | .tblstat | .tblpoly | .table _ => True

/-- A read/write register holds what a write of v stores (10_state.md R27 to R29, R32, R34 to R36). -/
def State.Stored (s : State) (r : Reg) (v : Word) : Prop :=
  match r with
  | .addr => s.addr = v
  | .len => s.len = v
  | .opnd => s.opnd = v
  | .chan .w8 c => s.ch8.Stored c v
  | .chan .w16 c => s.ch16.Stored c v
  | .chan .w32 c => s.ch32.Stored c v
  | .cmd | .status | .result | .faultaddr => True

/-! ### Host reads -/

/-- x is the value of a channel register, by the fields it holds (10_state.md R32 to R39): W-bit values zero-extended;
CFG is REFIN, REFOUT, DIR in bits 0, 1, 2; TBLSTAT is TVALID, TDIR in bits 0, 2; every other bit is 0. -/
def Channel.ReadsAs {w : Nat} (c : Channel w) (r : ChanReg) (x : Word) : Prop :=
  match r with
  | .poly => x.toNat = c.poly.toNat
  | .init => x.toNat = c.init.toNat
  | .xorout => x.toNat = c.xorout.toNat
  | .cfg => x.getLsbD 0 = c.cfg.refin ∧ x.getLsbD 1 = c.cfg.refout ∧ (x.getLsbD 2 = true ↔ c.cfg.dir = .right) ∧
      ∀ i, 3 ≤ i → x.getLsbD i = false
  | .tblstat => x.getLsbD 0 = c.tvalid ∧ (x.getLsbD 2 = true ↔ c.tdir = .right) ∧
      ∀ i, i ≠ 0 → i ≠ 2 → x.getLsbD i = false
  | .tblpoly => x.toNat = c.tblpoly.toNat
  | .table i => x.toNat = (tableEntry c.table i).toNat

/-- x is the value of a register, by the fields it holds (10_state.md R25 to R39; the codes of ERR: 60_exceptions.md
R170). -/
def State.ReadsAs (s : State) (r : Reg) (x : Word) : Prop :=
  match r with
  | .cmd => x = 0
  | .status => x.getLsbD 0 = s.pending.isSome ∧ x.getLsbD 8 = s.werr ∧
      (∀ i, (1 ≤ i ∧ i ≤ 3) ∨ 9 ≤ i → x.getLsbD i = false) ∧
      x.extractLsb' 4 4 = (match s.err with
        | .ok => 0x0#4
        | .illegalCmd => 0x1#4
        | .noTable => 0x2#4
        | .range => 0x3#4
        | .busFault => 0x4#4)
  | .addr => x = s.addr
  | .len => x = s.len
  | .opnd => x = s.opnd
  | .result => x = s.result
  | .faultaddr => x = s.faultaddr
  | .chan .w8 c => s.ch8.ReadsAs c x
  | .chan .w16 c => s.ch16.ReadsAs c x
  | .chan .w32 c => s.ch32.ReadsAs c x

/-! ### Host moves -/

/-- The read-only registers (10_state.md R23). -/
def readOnly : Reg → Bool
  | .result | .faultaddr | .chan _ .tblstat | .chan _ .tblpoly | .chan _ (.table _) => true
  | .cmd | .status | .addr | .len | .opnd => false
  | .chan _ .poly | .chan _ .init | .chan _ .xorout | .chan _ .cfg => false

/-- The move is a host write of a 32-bit value v that reaches this offset of the block. -/
def State.writesAt (s : State) (e : Event) (off : Nat) (v : Word) : Prop :=
  ∃ busAddr, e = .hostWrite busAddr 32 v ∧ windowOffset s.platform busAddr = some off ∧ off % 4 = 0

/-- The host waits (70_reset_and_hazards.md R215): while BUSY = 1 it writes no register but STATUS. -/
def State.hostWaits (s : State) (e : Event) : Prop :=
  s.busy = true → ∀ off v, s.writesAt e off v → off = 0x004

end Sys2Proof.Machine
end

