-- ==== Sys2Proof/Certificates/Slice0/Obligations.lean ====
section
/-! DEFINITION. The statements for the provers. -/

open Sys2Proof Sys2Proof.Machine

/-! ### Commands: decoding -/

/-- 30_encoding.md R83, R84: the opcode map, read by exact match, in both directions. -/
def Obligations.DecodeEncodeAgree : Prop :=
  (encode .nop = 0x00000000 ∧ encode .mktbl8 = 0x00000011 ∧ encode .mktbl16 = 0x00000012 ∧
    encode .mktbl32 = 0x00000013 ∧ encode .calc8 = 0x00000021 ∧ encode .calc16 = 0x00000022 ∧
    encode .calc32 = 0x00000023 ∧ encode .rev8 = 0x00000031 ∧ encode .rev16 = 0x00000032 ∧
    encode .rev32 = 0x00000033) ∧
  ∀ (w : Word) (i : Instr), decode w = .ok i ↔ w = encode i

/-- 30_encoding.md R86 (with R80 to R82): a word is a command exactly when Z = 0, CLS is at most 3, and WC is 0 for
NOP and 1, 2 or 3 for the other classes. -/
def Obligations.LegalWordsByTheirFields : Prop :=
  ∀ w : Word, (∃ i, decode w = .ok i) ↔
    (w.toNat / 256 = 0 ∧ w.toNat / 16 % 16 ≤ 3 ∧
      (w.toNat / 16 % 16 = 0 → w.toNat % 16 = 0) ∧
      (w.toNat / 16 % 16 ≠ 0 → 1 ≤ w.toNat % 16 ∧ w.toNat % 16 ≤ 3))

/-- 30_encoding.md R83, 95_test_vectors.md V-E8: words written out decode to the command they stand for, and illegal
words are rejected. -/
def Obligations.ListedWordsDecode : Prop :=
  decodeTableWord 32 0x00 = some .nop ∧ decodeTableWord 32 0x13 = some .mktbl32 ∧
  decodeTableWord 32 0x21 = some .calc8 ∧ decodeTableWord 32 0x32 = some .rev16 ∧
  (∀ w ∈ [0x01, 0x10, 0x14, 0x24, 0x30, 0x34, 0x41, 0xF3, 0x111, 0x80000011], decodeTableWord 32 w = none)

/-! ### The step -/

/-- 70_reset_and_hazards.md R204: when the engine's turn comes and the pending word decodes to a command, the step
is that command's meaning, with the move taken off the agenda. -/
def Obligations.StepRunsThePendingCommand : Prop :=
  ∀ (s : State) (w : Word) (i : Instr), s.nextEvent = .engine → s.pending = some w → decode w = .ok i →
    step s = exec i { s with agenda := s.agenda.tail }

/-- The fixed name withFetchWord: the very next step runs exactly the command of the word (log 2). -/
def Obligations.FetchWordRunsNext : Prop :=
  ∀ (s : State) (nbits w : Nat) (i : Instr), decodeTableWord nbits w = some i →
    step (s.withFetchWord nbits w) = exec i (s.latch (BitVec.ofNat 32 (w % 2 ^ nbits)))

/-- 60_exceptions.md R171: an illegal pending word ends with ILLEGAL_CMD and changes nothing else. -/
def Obligations.IllegalWordEndsWithIllegalCmd : Prop :=
  ∀ (s : State) (w : Word), s.nextEvent = .engine → s.pending = some w → (∀ i, encode i ≠ w) →
    ∃ t, step s = .next t ∧ State.Ends { s with agenda := s.agenda.tail } t .illegalCmd ∧
      s.SameBindings t ∧ t.result = s.result ∧ t.faultaddr = s.faultaddr ∧ t.bytesRead = s.bytesRead

/-- 60_exceptions.md R186, 70_reset_and_hazards.md R210: with no command pending and no move to come, nothing
changes. That the machine answers a next state there is the model's choice (log 3). -/
def Obligations.IdleBlockKeepsEverything : Prop :=
  ∀ s : State, s.pending = none → (s.agenda = [] → step s = .next s) ∧
    (∀ rest, s.agenda = .engine :: rest → step s = .next { s with agenda := rest })

/-- 70_reset_and_hazards.md R204 ("The step is always eventually taken"), on a platform without side-effecting buffers.
The bound rests on the agenda, the model's choice (log 1): after at most as many steps as there are moves to come, and
one, BUSY is 0; and if none of those moves is a reset, which would discard the command (R200), the engine's turn comes
with the same word and the same operands, and that step is the command's own, or ends with ILLEGAL_CMD. -/
def Obligations.PendingCommandIsEventuallyExecuted : Prop :=
  ∀ (s : State) (w : Word), s.platform.sideEffecting = [] → s.pending = some w →
    (∃ k ≤ s.agenda.length + 1, ∃ t, Sys2Proof.core.run k s = .next t ∧ t.busy = false) ∧
    (.reset ∉ s.agenda → ∃ k ≤ s.agenda.length, ∃ u t, Sys2Proof.core.run k s = .next u ∧
      u.nextEvent = .engine ∧ u.pending = some w ∧ (∀ r, r ≠ .status → u.regValue r = s.regValue r) ∧
      step u = .next t ∧ t.busy = false ∧
      (∀ i, decode w = .ok i → exec i { u with agenda := u.agenda.tail } = .next t) ∧
      ((∀ i, decode w ≠ .ok i) → t.err = .illegalCmd))

/-! ### NOP and bit reversal -/

/-- 43_nop.md R165: the engine's step of NOP; and STATUS.BUSY is 1 from the write of the NOP word to CMD. -/
def Obligations.NopCompletes : Prop :=
  encode .nop = 0x00000000 ∧
  (∀ s : State, s.busy = false → (s.hostStore 0x000 (encode .nop)).busy = true) ∧
  ∀ s : State, ∃ t, exec .nop s = .next t ∧ s.Ends t .ok ∧ s.SameBindings t ∧ t.result = s.result ∧
    t.faultaddr = s.faultaddr ∧ t.bytesRead = s.bytesRead

/-- 42_bit_reversal.md R152 to R154: REV8, REV16 and REV32 (n.bits = N) put the low N bits of OPND into RESULT in
reverse order, zero-extended. -/
def Obligations.ReversalCommandsComplete : Prop :=
  (encode .rev8 = 0x00000031 ∧ encode .rev16 = 0x00000032 ∧ encode .rev32 = 0x00000033) ∧
  (revCommand .w8 = .rev8 ∧ revCommand .w16 = .rev16 ∧ revCommand .w32 = .rev32) ∧
  ∀ (s : State) (n : Width), ∃ t, exec (revCommand n) s = .next t ∧
    (∀ i < n.bits, t.result.getLsbD (n.bits - 1 - i) = s.opnd.getLsbD i) ∧
    (∀ i ≥ n.bits, t.result.getLsbD i = false) ∧
    s.Ends t .ok ∧ s.SameBindings t ∧ t.faultaddr = s.faultaddr ∧ t.bytesRead = s.bytesRead

/-- 42_bit_reversal.md R151. -/
def Obligations.ReversalProperties : Prop :=
  ∀ n : Width, (∀ x : BitVec n.bits, reverseBits (reverseBits x) = x) ∧
    reverseBits (0 : BitVec n.bits) = 0 ∧
    reverseBits (BitVec.allOnes n.bits) = BitVec.allOnes n.bits ∧
    (∀ a b : BitVec n.bits, reverseBits (a ^^^ b) = reverseBits a ^^^ reverseBits b)

/-! ### The Table Builder -/

/-- 40_table_builder.md R104 to R106: MKTBL8, MKTBL16 and MKTBL32 build the whole table of their channel and its
binding, and touch nothing else. -/
def Obligations.TableBuildersComplete : Prop :=
  (encode .mktbl8 = 0x00000011 ∧ encode .mktbl16 = 0x00000012 ∧ encode .mktbl32 = 0x00000013) ∧
  (mktblOf .w8 = .mktbl8 ∧ mktblOf .w16 = .mktbl16 ∧ mktblOf .w32 = .mktbl32) ∧
  ∀ (s : State) (n : Width), ∃ t, exec (mktblOf n) s = .next t ∧ s.Built t n ∧
    (∀ m, m ≠ n → s.SameBinding t m) ∧ s.Ends t .ok ∧
    t.result = s.result ∧ t.faultaddr = s.faultaddr ∧ t.bytesRead = s.bytesRead

/-- 40_table_builder.md R100 to R102, in unsigned arithmetic modulo 2^W: the seed and one step of the builder, and
that an entry is eight steps from its seed. -/
def Obligations.BuilderArithmetic : Prop :=
  ∀ (n : Width) (poly r : BitVec n.bits) (i : Byte),
    (builderSeed (w := n.bits) .left i).toNat = i.toNat * 2 ^ (n.bits - 8) ∧
    (builderSeed (w := n.bits) .right i).toNat = i.toNat ∧
    (builderStep poly .left r).toNat =
      (if r.toNat < 2 ^ (n.bits - 1) then 2 * r.toNat else (2 * r.toNat - 2 ^ n.bits) ^^^ poly.toNat) ∧
    (builderStep poly .right r).toNat =
      (if r.toNat % 2 = 0 then r.toNat / 2 else (r.toNat / 2) ^^^ poly.toNat) ∧
    (∀ d, tableEntry (buildTable poly d) i = (builderStep poly d)^[8] (builderSeed d i))

/-- 40_table_builder.md R107. -/
def Obligations.TableEntriesAreLinear : Prop :=
  ∀ (n : Width) (poly : BitVec n.bits) (d : Dir),
    tableEntry (buildTable poly d) 0x00 = 0 ∧
    tableEntry (buildTable poly .left) 0x01 = poly ∧
    tableEntry (buildTable poly .right) 0x80 = poly ∧
    (∀ i j : Byte, tableEntry (buildTable poly d) (i ^^^ j) =
      tableEntry (buildTable poly d) i ^^^ tableEntry (buildTable poly d) j) ∧
    (∀ i : Byte, tableEntry (buildTable (0 : BitVec n.bits) d) i = 0)

/-! ### The Stream Reducer -/

/-- 41_stream_reducer.md R123: the Left forms, and that the width-8 form is the wide form with W = 8. -/
def Obligations.LeftStepForms : Prop :=
  (∀ (f : Right8Fold) (t : Table 8) (c b : BitVec 8),
    step8 f t .left c b = tableEntry t (c ^^^ b) ∧ step8 f t .left c b = stepLeft t c b) ∧
  (∀ (t : Table 16) (c : BitVec 16) (b : Byte),
    (stepWide t .left c b).toNat =
      (c.toNat * 256 % 2 ^ 16) ^^^ (tableEntry t (BitVec.ofNat 8 (c.toNat / 2 ^ 8) ^^^ b)).toNat) ∧
  (∀ (t : Table 32) (c : BitVec 32) (b : Byte),
    (stepWide t .left c b).toNat =
      (c.toNat * 256 % 2 ^ 32) ^^^ (tableEntry t (BitVec.ofNat 8 (c.toNat / 2 ^ 24) ^^^ b)).toNat)

/-- 41_stream_reducer.md R124, R125: the Right forms; at width 8 the two values of RIGHT8_FOLD (both are modelled, log
18), which differ exactly when c is not 0, and the generic one is the wide form with W = 8. -/
def Obligations.RightStepForms : Prop :=
  (∀ (t : Table 16) (c : BitVec 16) (b : Byte),
    (stepWide t .right c b).toNat =
      (tableEntry t (BitVec.ofNat 8 (c.toNat % 256) ^^^ b)).toNat ^^^ (c.toNat / 256)) ∧
  (∀ (t : Table 32) (c : BitVec 32) (b : Byte),
    (stepWide t .right c b).toNat =
      (tableEntry t (BitVec.ofNat 8 (c.toNat % 256) ^^^ b)).toNat ^^^ (c.toNat / 256)) ∧
  (∀ (t : Table 8) (c b : BitVec 8),
    step8 .literal t .right c b = tableEntry t (c ^^^ b) ^^^ c ∧
    step8 .generic t .right c b = tableEntry t (c ^^^ b) ∧
    step8 .generic t .right c b = stepRight t c b ∧
    (step8 .literal t .right c b ≠ step8 .generic t .right c b ↔ c ≠ 0))

/-- The point of the table (00_scope.md R15: "checksum computed via polynomial division over GF(2)"): folding a byte
through a built table is eight bit-serial shift-and-XOR steps of the builder (40_table_builder.md R100) on the
register with the byte XORed in at the end it shifts out of. Width 8 in Right mode: for the GENERIC form (R125). -/
def Obligations.TableFoldIsBitSerialDivision : Prop :=
  (∀ (poly c : BitVec 16) (d : Dir) (b : Byte),
    stepWide (buildTable poly d) d c b = (builderStep poly d)^[8] (c ^^^ builderSeed d b)) ∧
  (∀ (poly c : BitVec 32) (d : Dir) (b : Byte),
    stepWide (buildTable poly d) d c b = (builderStep poly d)^[8] (c ^^^ builderSeed d b)) ∧
  (∀ (poly c : BitVec 8) (f : Right8Fold) (b : Byte),
    step8 f (buildTable poly .left) .left c b = (builderStep poly .left)^[8] (c ^^^ builderSeed .left b)) ∧
  (∀ (poly c : BitVec 8) (b : Byte),
    step8 .generic (buildTable poly .right) .right c b =
      (builderStep poly .right)^[8] (c ^^^ builderSeed .right b))

/-- 41_stream_reducer.md R120, R127, R130 to R132; 20_memory.md R63: CALC8, CALC16 and CALC32 over a readable buffer. -/
def Obligations.StreamReducersComplete : Prop :=
  (calcCommand .w8 = .calc8 ∧ calcCommand .w16 = .calc16 ∧ calcCommand .w32 = .calc32) ∧
  ∀ (s : State) (n : Width) (bs : List Byte), s.tvalid n = true → s.addr.toNat + s.len.toNat ≤ 2 ^ 32 →
    bs.length = s.len.toNat → s.BufferHolds bs →
    ∃ t, exec (calcCommand n) s = .next t ∧ t.result = s.checksumWord n bs ∧
      t.bytesRead = s.addressesRead bs.length ++ s.bytesRead ∧
      s.Ends t .ok ∧ s.SameBindings t ∧ t.faultaddr = s.faultaddr

/-- 41_stream_reducer.md R128: the empty buffer. -/
def Obligations.EmptyBufferChecksum : Prop :=
  ∀ (s : State) (n : Width), s.len = 0 → ∃ t, exec (calcCommand n) s = .next t ∧ t.bytesRead = s.bytesRead ∧
    (s.tvalid n = false → t.err = .noTable) ∧
    (s.tvalid n = true → t.err = .ok ∧
      t.result = match n with
        | .w8 => zext32 (if s.ch8.cfg.refout then reverseBits (s.ch8.init ^^^ s.ch8.xorout)
            else s.ch8.init ^^^ s.ch8.xorout)
        | .w16 => zext32 (if s.ch16.cfg.refout then reverseBits (s.ch16.init ^^^ s.ch16.xorout)
            else s.ch16.init ^^^ s.ch16.xorout)
        | .w32 => zext32 (if s.ch32.cfg.refout then reverseBits (s.ch32.init ^^^ s.ch32.xorout)
            else s.ch32.init ^^^ s.ch32.xorout))

/-- 60_exceptions.md R173: NO_TABLE, whatever ADDR, LEN and the buffer are. -/
def Obligations.CalcWithoutTableEndsWithNoTable : Prop :=
  ∀ (s : State) (n : Width), s.tvalid n = false →
    ∃ t, exec (calcCommand n) s = .next t ∧ s.Ends t .noTable ∧ s.SameBindings t ∧ t.result = s.result ∧
      t.faultaddr = s.faultaddr ∧ t.bytesRead = s.bytesRead

/-- 60_exceptions.md R175: RANGE, after the NO_TABLE check, whatever the buffer is. -/
def Obligations.CalcPastTheTopEndsWithRange : Prop :=
  ∀ (s : State) (n : Width), s.tvalid n = true → s.addr.toNat + s.len.toNat > 2 ^ 32 →
    ∃ t, exec (calcCommand n) s = .next t ∧ s.Ends t .range ∧ s.SameBindings t ∧ t.result = s.result ∧
      t.faultaddr = s.faultaddr ∧ t.bytesRead = s.bytesRead

/-- 60_exceptions.md R174, 41_stream_reducer.md R134: BUS_FAULT at the first byte whose read faults; the bytes before
it have been read, none after it. -/
def Obligations.CalcFaultingReadEndsWithBusFault : Prop :=
  ∀ (s : State) (n : Width) (bs : List Byte), s.tvalid n = true → s.addr.toNat + s.len.toNat ≤ 2 ^ 32 →
    bs.length < s.len.toNat → s.BufferHolds bs →
    s.memRead (BitVec.ofNat 32 (s.addr.toNat + bs.length)) = .fault →
    ∃ t, exec (calcCommand n) s = .next t ∧ s.Ends t .busFault ∧ s.SameBindings t ∧ t.result = s.result ∧
      t.faultaddr = BitVec.ofNat 32 (s.addr.toNat + bs.length) ∧
      t.bytesRead = s.addressesRead bs.length ++ s.bytesRead

/-- 20_memory.md R69, 93 I11 (log 9): CALC is refused exactly where a byte it would read lies in a region whose reads
have side effects. -/
def Obligations.CalcRefusesSideEffectingBuffers : Prop :=
  (∀ (s : State) (n : Width) (bs : List Byte), s.tvalid n = true → s.addr.toNat + s.len.toNat ≤ 2 ^ 32 →
    bs.length < s.len.toNat → s.BufferHolds bs →
    s.memRead (BitVec.ofNat 32 (s.addr.toNat + bs.length)) = .sideEffect →
    exec (calcCommand n) s = .refused (.sideEffectingBuffer (BitVec.ofNat 32 (s.addr.toNat + bs.length)))) ∧
  (∀ (s : State) (i : Instr), (∀ k < s.len.toNat,
      s.memRead (BitVec.ofNat 32 (s.addr.toNat + k)) ≠ .sideEffect) → ∃ t, exec i s = .next t)

/-- 20_memory.md R62: no buffer address wraps once the range check has passed. -/
def Obligations.BufferAddressesDoNotWrap : Prop :=
  ∀ (s : State) (k : Nat), s.outOfRange = false → k < s.len.toNat →
    (s.bufferAddress k).toNat = s.addr.toNat + k

/-- 41_stream_reducer.md R129: the outcome of CALC is a function of the table, TVALID, TDIR, INIT, XOROUT, REFIN, REFOUT,
ADDR, LEN and the LEN bytes read (and RIGHT8_FOLD) alone. -/
def Obligations.CalcDependsOnlyOnItsOperands : Prop :=
  ∀ (s s' : State) (n : Width), s.SameFold s' n → s'.addr = s.addr → s'.len = s.len →
    s'.platform.right8Fold = s.platform.right8Fold →
    (∀ k < s.len.toNat, s'.memRead (BitVec.ofNat 32 (s.addr.toNat + k)) =
      s.memRead (BitVec.ofNat 32 (s.addr.toNat + k))) →
    ∀ t, exec (calcCommand n) s = .next t →
      ∃ t', exec (calcCommand n) s' = .next t' ∧ t'.err = t.err ∧ (t.err = .ok → t'.result = t.result) ∧
        (t.err = .busFault → t'.faultaddr = t.faultaddr)

/-- 41_stream_reducer.md R121, 70_reset_and_hazards.md R216: a write of POLY, or of CFG that keeps REFIN and REFOUT,
changes no CALC before the next MKTBL: it ends with the same STATUS.ERR, RESULT and FAULTADDR and makes the same reads. -/
def Obligations.PolyAndDirWritesReachNoCalc : Prop :=
  ∀ (s : State) (n m : Width) (v : Word) (t : State), exec (calcCommand n) s = .next t →
    (∃ t', exec (calcCommand n) (s.writeReg (.chan m .poly) v) = .next t' ∧ t'.err = t.err ∧
      t'.result = t.result ∧ t'.faultaddr = t.faultaddr ∧ t'.bytesRead = t.bytesRead) ∧
    ((s.regValue (.chan m .cfg)).extractLsb' 0 2 = v.extractLsb' 0 2 →
      ∃ t', exec (calcCommand n) (s.writeReg (.chan m .cfg) v) = .next t' ∧ t'.err = t.err ∧
        t'.result = t.result ∧ t'.faultaddr = t.faultaddr ∧ t'.bytesRead = t.bytesRead)

/-- The model's choice (log 7) within 20_memory.md R73, which allows the old and the new byte too: what memory holds at a
byte written while the command was pending does not decide what the engine reads there. -/
def Obligations.RacedBytesDoNotShow : Prop :=
  ∀ (s : State) (m : Memory) (i : Instr),
    (∀ a : Word, a ∉ s.raced → Memory.read m a.toNat = Memory.read s.mem a.toNat) →
    ∀ t, exec i s = .next t → exec i { s with mem := m } = .next { t with mem := m }

/-! ### The host's side -/

/-- 10_state.md R23: the register map, in both directions; every offset is a multiple of 4 in the window. -/
def Obligations.RegisterMapIsOneToOne : Prop :=
  (regOffset .cmd = 0x000 ∧ regOffset .status = 0x004 ∧ regOffset .addr = 0x008 ∧ regOffset .len = 0x00C ∧
    regOffset .opnd = 0x010 ∧ regOffset .result = 0x014 ∧ regOffset .faultaddr = 0x018) ∧
  (∀ n : Width, let cb := 0x1000 * (n.index + 1)
    regOffset (.chan n .poly) = cb ∧ regOffset (.chan n .init) = cb + 0x004 ∧
    regOffset (.chan n .xorout) = cb + 0x008 ∧ regOffset (.chan n .cfg) = cb + 0x00C ∧
    regOffset (.chan n .tblstat) = cb + 0x010 ∧ regOffset (.chan n .tblpoly) = cb + 0x014 ∧
    ∀ i : Byte, regOffset (.chan n (.table i)) = cb + 0x400 + 4 * i.toNat) ∧
  (∀ r : Reg, regAt (regOffset r) = some r ∧ regOffset r % 4 = 0 ∧ regOffset r < 0x4000) ∧
  (∀ (off : Nat) (r : Reg), off % 4 = 0 → regAt off = some r → regOffset r = off)

/-- 10_state.md R24: a host access at BASE + the register's offset reads or writes that register, whatever BASE is. The
record of answers is the model's own (log 13), and that a refused or ignored write gets the ordinary answer of a write is
the model's choice (log 20). -/
def Obligations.HostAccessReachesItsRegister : Prop :=
  ∀ (s : State) (r : Reg) (v : Word) (rest : List Event),
    (s.agenda = .hostRead (s.platform.base + regOffset r) 32 :: rest →
      step s = .next { s with agenda := rest, answers := .data (s.readReg r) :: s.answers }) ∧
    (s.agenda = .hostWrite (s.platform.base + regOffset r) 32 v :: rest →
      ∃ t, step s = .next t ∧ t.agenda = rest ∧ t.answers = .written :: s.answers ∧
        (∀ r', t.regValue r' = (s.hostStore (regOffset r) v).regValue r') ∧
        t.pending = (s.hostStore (regOffset r) v).pending ∧
        t.platform = s.platform ∧ t.mem = s.mem ∧ t.bytesRead = s.bytesRead)

/-- 20_memory.md R66: an access of another width or at a misaligned offset gets a bus error and changes no state of
the block. That the machine goes on and records the error (R66 and 93 I10: a fault of the host's access) is the model's
choice (log 10, log 13), and so is that a wide access running past the window counts as in it (log 11). -/
def Obligations.BadAccessGetsABusError : Prop :=
  ∀ (s : State) (off bits : Nat) (v : Word) (rest : List Event), off < 0x4000 → (bits ≠ 32 ∨ off % 4 ≠ 0) →
    (s.agenda = .hostRead (s.platform.base + off) bits :: rest ∨
      s.agenda = .hostWrite (s.platform.base + off) bits v :: rest) →
    step s = .next { s with agenda := rest, answers := .busError :: s.answers }

/-- 20_memory.md R68: a host read changes nothing but the record of answers, and two reads of one register with nothing
between them return the same value. -/
def Obligations.HostReadsHaveNoSideEffect : Prop :=
  ∀ (s t : State) (a bits : Nat), s.nextEvent = .hostRead a bits → step s = .next t →
    (∃ x, t = { s with agenda := s.agenda.tail, answers := x :: s.answers } ∧
      (t.nextEvent = .hostRead a bits →
        ∃ u, step t = .next u ∧ u = { s with agenda := s.agenda.tail.tail, answers := x :: x :: s.answers }))

/-- 10_state.md R40. -/
def Obligations.ReservedOffsetsReadZero : Prop :=
  ∀ (s : State) (off : Nat) (v : Word), off % 4 = 0 → off < 0x4000 → (∀ r, regOffset r ≠ off) →
    s.hostLoad off = 0 ∧ (s.busy = false → s.hostStore off v = s) ∧
    (s.busy = true → s.hostStore off v = { s with werr := true })

/-- 10_state.md R24, R27 to R29, R32, R34 to R36: an idle write of a read/write register stores its writable bits in the
fields its rule names, reads back as them, and leaves every other register as it was. -/
def Obligations.IdleWriteStoresTheWritableBits : Prop :=
  ∀ (s : State) (r : Reg) (v m : Word), s.busy = false → writableBits r = some m →
    (s.hostStore (regOffset r) v).Stored r v ∧
    (s.hostStore (regOffset r) v).hostLoad (regOffset r) = v &&& m ∧
    (∀ r', r' ≠ r → (s.hostStore (regOffset r) v).regValue r' = s.regValue r') ∧
    (s.hostStore (regOffset r) v).busy = false ∧ (s.hostStore (regOffset r) v).mem = s.mem ∧
    (s.hostStore (regOffset r) v).platform = s.platform

/-- 10_state.md R30, R31, R37 to R39: an idle write of a read-only register is ignored. -/
def Obligations.ReadOnlyWritesAreIgnored : Prop :=
  ∀ (s : State) (r : Reg) (v : Word), s.busy = false → readOnly r = true → s.hostStore (regOffset r) v = s

/-- 70_reset_and_hazards.md R212: while BUSY = 1 every write in the window but one of STATUS is refused and sets WERR. -/
def Obligations.BusyWritesAreRefused : Prop :=
  ∀ (s : State) (off : Nat) (v : Word), s.busy = true → off % 4 = 0 → off < 0x4000 → off ≠ regOffset .status →
    s.hostStore off v = { s with werr := true } ∧
    s.hostStore (regOffset .status) v = { s with werr := s.werr && !v.getLsbD 8 }

/-- 10_state.md R26: the fields of STATUS as read (ERR only while idle: R211), and a write of STATUS, accepted whatever
BUSY is, that clears WERR exactly when bit 8 is 1. -/
def Obligations.StatusFieldsAndWrite : Prop :=
  ∀ (s : State) (v : Word),
    (s.hostLoad 0x004).getLsbD 0 = s.pending.isSome ∧ (s.hostLoad 0x004).getLsbD 8 = s.werr ∧
    (∀ i, (1 ≤ i ∧ i ≤ 3) ∨ 9 ≤ i → (s.hostLoad 0x004).getLsbD i = false) ∧
    (s.busy = false → (s.hostLoad 0x004).extractLsb' 4 4 = s.err.code ∧ s.err.code.toNat ≤ 4) ∧
    s.hostStore 0x004 v = { s with werr := s.werr && !v.getLsbD 8 }

/-- 10_state.md R25: a write of CMD while idle latches the word, sets BUSY and leaves every other register unchanged;
a read of CMD returns 0. -/
def Obligations.CmdWriteLatches : Prop :=
  ∀ (s : State) (v : Word), s.hostLoad 0x000 = 0 ∧ (s.busy = false →
    (s.hostStore 0x000 v).pending = some v ∧ (s.hostStore 0x000 v).busy = true ∧
    (s.hostStore 0x000 v).err = s.err ∧ (s.hostStore 0x000 v).werr = s.werr ∧
    (∀ r, r ≠ .status → (s.hostStore 0x000 v).regValue r = s.regValue r) ∧
    (s.hostStore 0x000 v).mem = s.mem)

/-- 70_reset_and_hazards.md R211 ("every other register reads its value"): while a command is pending, a read of a
register it may not write returns the register's value; a TABLE must have been built (10_state.md R39). -/
def Obligations.BusyReadsOfOtherRegisters : Prop :=
  ∀ (s : State) (w : Word) (r : Reg), s.pending = some w → r ≠ .status → r ≠ .result → r ≠ .faultaddr →
    (∀ n i, r = .chan n (.table i) → s.tvalid n = true) →
    (∀ n, w = encode (mktblOf n) → ∀ c, r = .chan n c → c = .poly ∨ c = .init ∨ c = .xorout ∨ c = .cfg) →
    s.hostLoad (regOffset r) = s.regValue r

/-- 20_memory.md R72 (e): a byte written while no command is pending is the byte the command latched next reads there, and
no other byte changes. R72 (e) asks that the write has been made visible to the engine; that the move bufferWrite is that
moment is the model's choice (log 17). -/
def Obligations.BufferWriteThenRead : Prop :=
  ∀ (s : State) (a : Word) (b : Byte) (v : Word), s.busy = false → bufOk s.platform a = true →
    readHasSideEffect s.platform a = false →
    ((s.bufferWrite a b).latch v).memRead a = .byte b ∧
    (∀ a', a' ≠ a → ((s.bufferWrite a b).latch v).memRead a' = (s.latch v).memRead a')

/-- 70_reset_and_hazards.md R200; 10_state.md R43: the reset event at any time, and State.reset. -/
def Obligations.ResetLeavesResetValues : Prop :=
  State.AfterReset State.reset ∧
  ∀ s : State, s.nextEvent = .reset → ∃ t, step s = .next t ∧ t.AfterReset

/-- The reset event sets the block's registers alone: buffer memory and the platform are not the block's state
(10_state.md R22), and that they and the model's records stay is the model's choice (log 19). -/
def Obligations.ResetKeepsThePlatformSide : Prop :=
  ∀ s t : State, s.nextEvent = .reset → step s = .next t →
    t.mem = s.mem ∧ t.platform = s.platform ∧ t.agenda = s.agenda.tail ∧ t.answers = s.answers ∧
      t.bytesRead = s.bytesRead

/-- 30_encoding.md R89, 20_memory.md R74: a run of WAIT on a pending command polls BUSY = 1 until the engine's step, and
then reads BUSY = 0; no command is pending at its end (log 21). -/
def Obligations.WaitEndsWithBusyZero : Prop :=
  ∀ (s : State) (polls : Nat), s.platform.sideEffecting = [] → s.busy = true →
    s.agenda = waitEvents s.platform.base polls →
    ∃ (t : State) (v : Word) (vs : List Word), Sys2Proof.core.run (polls + 2) s = .next t ∧ t.busy = false ∧
      t.answers = (v :: vs).map Answer.data ++ s.answers ∧ vs.length = polls ∧
      busyTaken v = false ∧ ∀ x ∈ vs, busyTaken x = true

/-! ### The whole machine -/

/-- Every step keeps the invariant: canonical memory, every table the one its binding names (10_state.md R33), bytes
raced only while a command is pending. -/
def Obligations.StepKeepsInvariant : Prop := ∀ s t : State, s.Inv → step s = .next t → t.Inv

/-- The invariant holds right after reset. -/
def Obligations.ResetHasInvariant : Prop := State.reset.Inv

/-- 00_scope.md R8, 10_state.md R22: no step changes the platform's parameters. -/
def Obligations.PlatformNeverChanges : Prop := ∀ s t : State, step s = .next t → t.platform = s.platform

/-- 20_memory.md R61: buffer memory is never written by the block: only the move that writes a buffer byte changes
it, and it changes that byte alone. That the reset event too leaves buffer memory is the model's choice (log 19). -/
def Obligations.BlockNeverWritesBufferMemory : Prop :=
  ∀ s t : State, step s = .next t →
    ∀ a : Nat, (∀ (x : Word) (b : Byte), s.nextEvent = .bufferWrite x b → x.toNat ≠ a) →
      Memory.read t.mem a = Memory.read s.mem a

/-- 10_state.md R33, R39; 70 R203: only MKTBL of channel n, and reset, write the table or the binding of channel n. -/
def Obligations.OnlyMktblWritesTheBinding : Prop :=
  ∀ (s t : State) (n : Width), step s = .next t → s.nextEvent ≠ .reset →
    ¬ (s.nextEvent = .engine ∧ s.pending = some (encode (mktblOf n))) → s.SameBinding t n

/-- 10_state.md R37: TVALID is never cleared except by reset. -/
def Obligations.OnlyResetClearsTvalid : Prop :=
  ∀ (s t : State) (n : Width), step s = .next t → s.tvalid n = true → s.nextEvent ≠ .reset → t.tvalid n = true

/-- 10_state.md R26, 60_exceptions.md R179: WERR stays 1 until the host writes 1 to STATUS bit 8, or reset. -/
def Obligations.WerrIsSticky : Prop :=
  ∀ s t : State, step s = .next t → s.werr = true → s.nextEvent ≠ .reset →
    (∀ v, s.writesAt s.nextEvent 0x004 v → v.getLsbD 8 = false) → t.werr = true

/-- 70_reset_and_hazards.md R215: a host that waits never sets WERR. -/
def Obligations.WaitingHostSetsNoWerr : Prop :=
  ∀ s t : State, step s = .next t → s.werr = false → s.hostWaits s.nextEvent → t.werr = false

/-- 10_state.md R30: RESULT is written only by a successful CALC or REV (and by reset). -/
def Obligations.OnlySuccessWritesResult : Prop :=
  ∀ s t : State, step s = .next t → s.nextEvent ≠ .reset → t.result ≠ s.result →
    s.nextEvent = .engine ∧ t.err = .ok ∧
      ∃ n, s.pending = some (encode (calcCommand n)) ∨ s.pending = some (encode (revCommand n))

/-- 10_state.md R31: FAULTADDR is written only when a CALC ends with BUS_FAULT (and by reset). -/
def Obligations.OnlyBusFaultWritesFaultaddr : Prop :=
  ∀ s t : State, step s = .next t → s.nextEvent ≠ .reset → t.faultaddr ≠ s.faultaddr →
    s.nextEvent = .engine ∧ t.err = .busFault ∧ ∃ n, s.pending = some (encode (calcCommand n))

/-- 70_reset_and_hazards.md R212, 20_memory.md R72 (b): while a command is pending, no move but the engine's and reset
changes the command or any register other than WERR. -/
def Obligations.PendingCommandKeepsItsOperands : Prop :=
  ∀ s t : State, step s = .next t → s.busy = true → s.nextEvent ≠ .engine → s.nextEvent ≠ .reset →
    t.pending = s.pending ∧ t.err = s.err ∧ ∀ r, r ≠ .status → t.regValue r = s.regValue r

/-- 70_reset_and_hazards.md R204, R210: the engine's turn with a pending command always clears it, unless it is
refused; with none it changes no register. -/
def Obligations.EngineStepClearsBusy : Prop :=
  ∀ s t : State, step s = .next t → s.nextEvent = .engine → t.busy = false ∧
    (s.busy = false → ∀ r, t.regValue r = s.regValue r)

/-! ### Registers by their fields -/

/-- 10_state.md R24 to R39, 60_exceptions.md R170: the value of every register by the fields it holds; and while BUSY = 0
a host read of a register returns that value, a TABLE only once it has been built (R39). -/
def Obligations.IdleReadsReturnTheFields : Prop :=
  (∀ (s : State) (r : Reg), s.ReadsAs r (s.regValue r)) ∧
  (∀ (s : State) (r : Reg), s.busy = false → (∀ n i, r = .chan n (.table i) → s.tvalid n = true) →
    s.ReadsAs r (s.hostLoad (regOffset r)))
end

