-- ==== Sys2Proof/Laws/Memory.lean ====
section
/-! SUPPORT. The laws of buffer memory: read after write, the canonical form, and that canonical memories with
the same reads are equal. -/

namespace Sys2Proof.Machine

@[simp] theorem Memory.read_nil (a : Nat) : Memory.read [] a = none := rfl

theorem Memory.read_write_same (m : Memory) (a : Nat) (b : Byte) :
    Memory.read (Memory.write m a b) a = some b := by
  induction m with
  | nil => simp [Memory.write, Memory.read]
  | cons c m ih =>
    obtain ⟨a', b'⟩ := c
    simp only [Memory.write]
    split_ifs with h1 h2
    · simp [Memory.read]
    · simp [Memory.read]
    · simp [Memory.read, h2, ih]

theorem Memory.read_write_other (m : Memory) {a a' : Nat} (b : Byte) (h : a' ≠ a) :
    Memory.read (Memory.write m a b) a' = Memory.read m a' := by
  induction m with
  | nil => simp [Memory.write, Memory.read, h]
  | cons c m ih =>
    obtain ⟨x, y⟩ := c
    simp only [Memory.write]
    split_ifs with h1 h2
    · simp [Memory.read, h]
    · subst h2; simp [Memory.read, h]
    · simp [Memory.read, ih]

@[simp] theorem Memory.read_write (m : Memory) (a a' : Nat) (b : Byte) :
    Memory.read (Memory.write m a b) a' = if a' = a then some b else Memory.read m a' := by
  split_ifs with h
  · subst h; exact Memory.read_write_same ..
  · exact Memory.read_write_other _ _ h

theorem Memory.wfFrom_mono {m : Memory} {lo lo' : Nat} (h : lo' ≤ lo) (hm : Memory.wfFrom lo m) :
    Memory.wfFrom lo' m := by
  cases m with
  | nil => rfl
  | cons c m =>
    simp only [Memory.wfFrom, Bool.and_eq_true, decide_eq_true_eq] at hm ⊢
    exact ⟨⟨h.trans hm.1.1, hm.1.2⟩, hm.2⟩

theorem Memory.write_wfFrom {m : Memory} {lo a : Nat} {b : Byte} (hlo : lo ≤ a) (ha : a < addressSpace)
    (hm : Memory.wfFrom lo m) : Memory.wfFrom lo (Memory.write m a b) := by
  induction m generalizing lo with
  | nil => simp [Memory.write, Memory.wfFrom, hlo]; exact ha
  | cons c m ih =>
    obtain ⟨x, y⟩ := c
    simp only [Memory.wfFrom, Bool.and_eq_true, decide_eq_true_eq] at hm
    simp only [Memory.write]
    split_ifs with h1 h2
    · simp only [Memory.wfFrom, Bool.and_eq_true, decide_eq_true_eq]
      exact ⟨⟨hlo, ha⟩, ⟨h1, hm.1.2⟩, hm.2⟩
    · subst h2
      simp only [Memory.wfFrom, Bool.and_eq_true, decide_eq_true_eq]
      exact ⟨⟨hlo, ha⟩, hm.2⟩
    · simp only [Memory.wfFrom, Bool.and_eq_true, decide_eq_true_eq]
      exact ⟨hm.1, ih (by omega) hm.2⟩

/-- A write keeps the canonical form. -/
theorem Memory.write_wf {m : Memory} (hm : Memory.wf m) (a : Word) (b : Byte) :
    Memory.wf (Memory.write m a.toNat b) :=
  Memory.write_wfFrom (Nat.zero_le _) a.isLt hm

theorem Memory.read_below {m : Memory} {lo a : Nat} (hm : Memory.wfFrom lo m) (h : a < lo) :
    Memory.read m a = none := by
  induction m generalizing lo with
  | nil => rfl
  | cons c m ih =>
    obtain ⟨x, y⟩ := c
    simp only [Memory.wfFrom, Bool.and_eq_true, decide_eq_true_eq] at hm
    have hx : a ≠ x := by omega
    simp only [Memory.read, if_neg hx]
    exact ih hm.2 (by omega)

theorem Memory.wfFrom_ext {m m' : Memory} {lo : Nat} (hm : Memory.wfFrom lo m) (hm' : Memory.wfFrom lo m')
    (h : ∀ a, Memory.read m a = Memory.read m' a) : m = m' := by
  induction m generalizing m' lo with
  | nil =>
    cases m' with
    | nil => rfl
    | cons c m' => simpa [Memory.read] using h c.1
  | cons c m ih =>
    obtain ⟨x, y⟩ := c
    cases m' with
    | nil => simpa [Memory.read] using h x
    | cons c' m' =>
      obtain ⟨x', y'⟩ := c'
      simp only [Memory.wfFrom, Bool.and_eq_true, decide_eq_true_eq] at hm hm'
      have hxx : x = x' := by
        by_contra hne
        rcases Nat.lt_or_gt_of_ne hne with hlt | hlt
        · have h1 := h x
          simp [Memory.read, hne, Memory.read_below hm'.2 (show x < x' + 1 by omega)] at h1
        · have h1 := h x'
          simp [Memory.read, Ne.symm hne, Memory.read_below hm.2 (show x' < x + 1 by omega)] at h1
      subst hxx
      have hyy : y = y' := by simpa [Memory.read] using h x
      subst hyy
      have htail : ∀ a, Memory.read m a = Memory.read m' a := by
        intro a
        by_cases hax : a = x
        · subst hax
          rw [Memory.read_below hm.2 (Nat.lt_succ_self _), Memory.read_below hm'.2 (Nat.lt_succ_self _)]
        · simpa [Memory.read, hax] using h a
      rw [ih hm.2 hm'.2 htail]

/-- Canonical memories with the same reads are the same list. -/
theorem Memory.wf_ext {m m' : Memory} (hm : Memory.wf m) (hm' : Memory.wf m')
    (h : ∀ a, Memory.read m a = Memory.read m' a) : m = m' :=
  Memory.wfFrom_ext hm hm' h

/-- Memory right after reset is canonical. -/
theorem reset_mem_wf : Memory.wf State.reset.mem := rfl

end Sys2Proof.Machine
end

