-- ==== Sys2Proof/Laws/PerInstr.lean ====
section
/-! SUPPORT. Families of statements with one lemma per command: the decoder reads a command's word back, and the
assembler its mnemonic. -/

namespace Sys2Proof.Laws

/-- The word of a command has well-formed fields and decodes to the command (spec 30_encoding.md R83). -/
def RoundTrip.Statement (i : Instr) : Prop :=
  i.wf = true ∧ (CmdFields.ofWord (encode i)).wf = true ∧ decode (encode i) = .ok i

theorem RoundTrip.nop : RoundTrip.Statement .nop := ⟨rfl, rfl, rfl⟩
theorem RoundTrip.mktbl8 : RoundTrip.Statement .mktbl8 := ⟨rfl, rfl, rfl⟩
theorem RoundTrip.mktbl16 : RoundTrip.Statement .mktbl16 := ⟨rfl, rfl, rfl⟩
theorem RoundTrip.mktbl32 : RoundTrip.Statement .mktbl32 := ⟨rfl, rfl, rfl⟩
theorem RoundTrip.calc8 : RoundTrip.Statement .calc8 := ⟨rfl, rfl, rfl⟩
theorem RoundTrip.calc16 : RoundTrip.Statement .calc16 := ⟨rfl, rfl, rfl⟩
theorem RoundTrip.calc32 : RoundTrip.Statement .calc32 := ⟨rfl, rfl, rfl⟩
theorem RoundTrip.rev8 : RoundTrip.Statement .rev8 := ⟨rfl, rfl, rfl⟩
theorem RoundTrip.rev16 : RoundTrip.Statement .rev16 := ⟨rfl, rfl, rfl⟩
theorem RoundTrip.rev32 : RoundTrip.Statement .rev32 := ⟨rfl, rfl, rfl⟩

end Sys2Proof.Laws
end

