-- ==== Sys2Proof/Laws/State.lean ====
section
/-! SUPPORT. What each named update of the state leaves in each field: one lemma per field, true by rfl, so that no
proof unfolds a record update. -/

namespace Sys2Proof.Machine

/-! ### The end of a command -/

@[simp] theorem State.finish_pending (s : State) (c : ErrCode) : (s.finish c).pending = none := rfl
@[simp] theorem State.finish_err (s : State) (c : ErrCode) : (s.finish c).err = c := rfl
@[simp] theorem State.finish_werr (s : State) (c : ErrCode) : (s.finish c).werr = s.werr := rfl
@[simp] theorem State.finish_addr (s : State) (c : ErrCode) : (s.finish c).addr = s.addr := rfl
@[simp] theorem State.finish_len (s : State) (c : ErrCode) : (s.finish c).len = s.len := rfl
@[simp] theorem State.finish_opnd (s : State) (c : ErrCode) : (s.finish c).opnd = s.opnd := rfl
@[simp] theorem State.finish_result (s : State) (c : ErrCode) : (s.finish c).result = s.result := rfl
@[simp] theorem State.finish_faultaddr (s : State) (c : ErrCode) : (s.finish c).faultaddr = s.faultaddr := rfl
@[simp] theorem State.finish_ch8 (s : State) (c : ErrCode) : (s.finish c).ch8 = s.ch8 := rfl
@[simp] theorem State.finish_ch16 (s : State) (c : ErrCode) : (s.finish c).ch16 = s.ch16 := rfl
@[simp] theorem State.finish_ch32 (s : State) (c : ErrCode) : (s.finish c).ch32 = s.ch32 := rfl
@[simp] theorem State.finish_platform (s : State) (c : ErrCode) : (s.finish c).platform = s.platform := rfl
@[simp] theorem State.finish_mem (s : State) (c : ErrCode) : (s.finish c).mem = s.mem := rfl
@[simp] theorem State.finish_raced (s : State) (c : ErrCode) : (s.finish c).raced = [] := rfl
@[simp] theorem State.finish_agenda (s : State) (c : ErrCode) : (s.finish c).agenda = s.agenda := rfl
@[simp] theorem State.finish_answers (s : State) (c : ErrCode) : (s.finish c).answers = s.answers := rfl
@[simp] theorem State.finish_bytesRead (s : State) (c : ErrCode) : (s.finish c).bytesRead = s.bytesRead := rfl
@[simp] theorem State.finish_draws (s : State) (c : ErrCode) : (s.finish c).draws = s.draws + 1 := rfl

/-! ### Raising an error -/

@[simp] theorem State.raise_pending (s : State) (e : CmdError) : (s.raise e).pending = none := rfl
@[simp] theorem State.raise_err (s : State) (e : CmdError) : (s.raise e).err = e.code := rfl
@[simp] theorem State.raise_werr (s : State) (e : CmdError) : (s.raise e).werr = s.werr := rfl
@[simp] theorem State.raise_addr (s : State) (e : CmdError) : (s.raise e).addr = s.addr := rfl
@[simp] theorem State.raise_len (s : State) (e : CmdError) : (s.raise e).len = s.len := rfl
@[simp] theorem State.raise_opnd (s : State) (e : CmdError) : (s.raise e).opnd = s.opnd := rfl
@[simp] theorem State.raise_result (s : State) (e : CmdError) : (s.raise e).result = s.result := rfl
@[simp] theorem State.raise_faultaddr (s : State) (e : CmdError) : (s.raise e).faultaddr = e.faultaddr s.faultaddr := rfl
@[simp] theorem State.raise_ch8 (s : State) (e : CmdError) : (s.raise e).ch8 = s.ch8 := rfl
@[simp] theorem State.raise_ch16 (s : State) (e : CmdError) : (s.raise e).ch16 = s.ch16 := rfl
@[simp] theorem State.raise_ch32 (s : State) (e : CmdError) : (s.raise e).ch32 = s.ch32 := rfl
@[simp] theorem State.raise_platform (s : State) (e : CmdError) : (s.raise e).platform = s.platform := rfl
@[simp] theorem State.raise_mem (s : State) (e : CmdError) : (s.raise e).mem = s.mem := rfl
@[simp] theorem State.raise_raced (s : State) (e : CmdError) : (s.raise e).raced = [] := rfl
@[simp] theorem State.raise_agenda (s : State) (e : CmdError) : (s.raise e).agenda = s.agenda := rfl
@[simp] theorem State.raise_answers (s : State) (e : CmdError) : (s.raise e).answers = s.answers := rfl
@[simp] theorem State.raise_bytesRead (s : State) (e : CmdError) : (s.raise e).bytesRead = s.bytesRead := rfl
@[simp] theorem State.raise_draws (s : State) (e : CmdError) : (s.raise e).draws = s.draws + 1 := rfl

/-! ### Latching a command -/

@[simp] theorem State.latch_pending (s : State) (v : Word) : (s.latch v).pending = some v := rfl
@[simp] theorem State.latch_err (s : State) (v : Word) : (s.latch v).err = s.err := rfl
@[simp] theorem State.latch_werr (s : State) (v : Word) : (s.latch v).werr = s.werr := rfl
@[simp] theorem State.latch_addr (s : State) (v : Word) : (s.latch v).addr = s.addr := rfl
@[simp] theorem State.latch_len (s : State) (v : Word) : (s.latch v).len = s.len := rfl
@[simp] theorem State.latch_opnd (s : State) (v : Word) : (s.latch v).opnd = s.opnd := rfl
@[simp] theorem State.latch_result (s : State) (v : Word) : (s.latch v).result = s.result := rfl
@[simp] theorem State.latch_faultaddr (s : State) (v : Word) : (s.latch v).faultaddr = s.faultaddr := rfl
@[simp] theorem State.latch_ch8 (s : State) (v : Word) : (s.latch v).ch8 = s.ch8 := rfl
@[simp] theorem State.latch_ch16 (s : State) (v : Word) : (s.latch v).ch16 = s.ch16 := rfl
@[simp] theorem State.latch_ch32 (s : State) (v : Word) : (s.latch v).ch32 = s.ch32 := rfl
@[simp] theorem State.latch_platform (s : State) (v : Word) : (s.latch v).platform = s.platform := rfl
@[simp] theorem State.latch_mem (s : State) (v : Word) : (s.latch v).mem = s.mem := rfl
@[simp] theorem State.latch_raced (s : State) (v : Word) : (s.latch v).raced = [] := rfl
@[simp] theorem State.latch_agenda (s : State) (v : Word) : (s.latch v).agenda = s.agenda := rfl
@[simp] theorem State.latch_answers (s : State) (v : Word) : (s.latch v).answers = s.answers := rfl
@[simp] theorem State.latch_bytesRead (s : State) (v : Word) : (s.latch v).bytesRead = s.bytesRead := rfl
@[simp] theorem State.latch_draws (s : State) (v : Word) : (s.latch v).draws = s.draws := rfl

/-! ### Drawing anew, the host's answer, the next move -/

@[simp] theorem State.redraw_pending (s : State) : (s.redraw).pending = s.pending := rfl
@[simp] theorem State.redraw_err (s : State) : (s.redraw).err = s.err := rfl
@[simp] theorem State.redraw_werr (s : State) : (s.redraw).werr = s.werr := rfl
@[simp] theorem State.redraw_addr (s : State) : (s.redraw).addr = s.addr := rfl
@[simp] theorem State.redraw_len (s : State) : (s.redraw).len = s.len := rfl
@[simp] theorem State.redraw_opnd (s : State) : (s.redraw).opnd = s.opnd := rfl
@[simp] theorem State.redraw_result (s : State) : (s.redraw).result = s.result := rfl
@[simp] theorem State.redraw_faultaddr (s : State) : (s.redraw).faultaddr = s.faultaddr := rfl
@[simp] theorem State.redraw_ch8 (s : State) : (s.redraw).ch8 = s.ch8 := rfl
@[simp] theorem State.redraw_ch16 (s : State) : (s.redraw).ch16 = s.ch16 := rfl
@[simp] theorem State.redraw_ch32 (s : State) : (s.redraw).ch32 = s.ch32 := rfl
@[simp] theorem State.redraw_platform (s : State) : (s.redraw).platform = s.platform := rfl
@[simp] theorem State.redraw_mem (s : State) : (s.redraw).mem = s.mem := rfl
@[simp] theorem State.redraw_raced (s : State) : (s.redraw).raced = s.raced := rfl
@[simp] theorem State.redraw_agenda (s : State) : (s.redraw).agenda = s.agenda := rfl
@[simp] theorem State.redraw_answers (s : State) : (s.redraw).answers = s.answers := rfl
@[simp] theorem State.redraw_bytesRead (s : State) : (s.redraw).bytesRead = s.bytesRead := rfl
@[simp] theorem State.redraw_draws (s : State) : (s.redraw).draws = s.draws + 1 := rfl

@[simp] theorem State.answer_pending (s : State) (a : Answer) : (s.answer a).pending = s.pending := rfl
@[simp] theorem State.answer_err (s : State) (a : Answer) : (s.answer a).err = s.err := rfl
@[simp] theorem State.answer_werr (s : State) (a : Answer) : (s.answer a).werr = s.werr := rfl
@[simp] theorem State.answer_addr (s : State) (a : Answer) : (s.answer a).addr = s.addr := rfl
@[simp] theorem State.answer_len (s : State) (a : Answer) : (s.answer a).len = s.len := rfl
@[simp] theorem State.answer_opnd (s : State) (a : Answer) : (s.answer a).opnd = s.opnd := rfl
@[simp] theorem State.answer_result (s : State) (a : Answer) : (s.answer a).result = s.result := rfl
@[simp] theorem State.answer_faultaddr (s : State) (a : Answer) : (s.answer a).faultaddr = s.faultaddr := rfl
@[simp] theorem State.answer_ch8 (s : State) (a : Answer) : (s.answer a).ch8 = s.ch8 := rfl
@[simp] theorem State.answer_ch16 (s : State) (a : Answer) : (s.answer a).ch16 = s.ch16 := rfl
@[simp] theorem State.answer_ch32 (s : State) (a : Answer) : (s.answer a).ch32 = s.ch32 := rfl
@[simp] theorem State.answer_platform (s : State) (a : Answer) : (s.answer a).platform = s.platform := rfl
@[simp] theorem State.answer_mem (s : State) (a : Answer) : (s.answer a).mem = s.mem := rfl
@[simp] theorem State.answer_raced (s : State) (a : Answer) : (s.answer a).raced = s.raced := rfl
@[simp] theorem State.answer_agenda (s : State) (a : Answer) : (s.answer a).agenda = s.agenda := rfl
@[simp] theorem State.answer_answers (s : State) (a : Answer) : (s.answer a).answers = a :: s.answers := rfl
@[simp] theorem State.answer_bytesRead (s : State) (a : Answer) : (s.answer a).bytesRead = s.bytesRead := rfl
@[simp] theorem State.answer_draws (s : State) (a : Answer) : (s.answer a).draws = s.draws := rfl

@[simp] theorem State.popEvent_pending (s : State) : (s.popEvent).pending = s.pending := rfl
@[simp] theorem State.popEvent_err (s : State) : (s.popEvent).err = s.err := rfl
@[simp] theorem State.popEvent_werr (s : State) : (s.popEvent).werr = s.werr := rfl
@[simp] theorem State.popEvent_addr (s : State) : (s.popEvent).addr = s.addr := rfl
@[simp] theorem State.popEvent_len (s : State) : (s.popEvent).len = s.len := rfl
@[simp] theorem State.popEvent_opnd (s : State) : (s.popEvent).opnd = s.opnd := rfl
@[simp] theorem State.popEvent_result (s : State) : (s.popEvent).result = s.result := rfl
@[simp] theorem State.popEvent_faultaddr (s : State) : (s.popEvent).faultaddr = s.faultaddr := rfl
@[simp] theorem State.popEvent_ch8 (s : State) : (s.popEvent).ch8 = s.ch8 := rfl
@[simp] theorem State.popEvent_ch16 (s : State) : (s.popEvent).ch16 = s.ch16 := rfl
@[simp] theorem State.popEvent_ch32 (s : State) : (s.popEvent).ch32 = s.ch32 := rfl
@[simp] theorem State.popEvent_platform (s : State) : (s.popEvent).platform = s.platform := rfl
@[simp] theorem State.popEvent_mem (s : State) : (s.popEvent).mem = s.mem := rfl
@[simp] theorem State.popEvent_raced (s : State) : (s.popEvent).raced = s.raced := rfl
@[simp] theorem State.popEvent_agenda (s : State) : (s.popEvent).agenda = s.agenda.tail := rfl
@[simp] theorem State.popEvent_answers (s : State) : (s.popEvent).answers = s.answers := rfl
@[simp] theorem State.popEvent_bytesRead (s : State) : (s.popEvent).bytesRead = s.bytesRead := rfl
@[simp] theorem State.popEvent_draws (s : State) : (s.popEvent).draws = s.draws := rfl

/-! ### Reset -/

@[simp] theorem State.resetRegisters_pending (s : State) : (s.resetRegisters).pending = State.reset.pending := rfl
@[simp] theorem State.resetRegisters_err (s : State) : (s.resetRegisters).err = State.reset.err := rfl
@[simp] theorem State.resetRegisters_werr (s : State) : (s.resetRegisters).werr = State.reset.werr := rfl
@[simp] theorem State.resetRegisters_addr (s : State) : (s.resetRegisters).addr = State.reset.addr := rfl
@[simp] theorem State.resetRegisters_len (s : State) : (s.resetRegisters).len = State.reset.len := rfl
@[simp] theorem State.resetRegisters_opnd (s : State) : (s.resetRegisters).opnd = State.reset.opnd := rfl
@[simp] theorem State.resetRegisters_result (s : State) : (s.resetRegisters).result = State.reset.result := rfl
@[simp] theorem State.resetRegisters_faultaddr (s : State) : (s.resetRegisters).faultaddr = State.reset.faultaddr := rfl
@[simp] theorem State.resetRegisters_ch8 (s : State) : (s.resetRegisters).ch8 = State.reset.ch8 := rfl
@[simp] theorem State.resetRegisters_ch16 (s : State) : (s.resetRegisters).ch16 = State.reset.ch16 := rfl
@[simp] theorem State.resetRegisters_ch32 (s : State) : (s.resetRegisters).ch32 = State.reset.ch32 := rfl
@[simp] theorem State.resetRegisters_platform (s : State) : (s.resetRegisters).platform = s.platform := rfl
@[simp] theorem State.resetRegisters_mem (s : State) : (s.resetRegisters).mem = s.mem := rfl
@[simp] theorem State.resetRegisters_raced (s : State) : (s.resetRegisters).raced = State.reset.raced := rfl
@[simp] theorem State.resetRegisters_agenda (s : State) : (s.resetRegisters).agenda = s.agenda := rfl
@[simp] theorem State.resetRegisters_answers (s : State) : (s.resetRegisters).answers = s.answers := rfl
@[simp] theorem State.resetRegisters_bytesRead (s : State) : (s.resetRegisters).bytesRead = s.bytesRead := rfl
@[simp] theorem State.resetRegisters_draws (s : State) : (s.resetRegisters).draws = s.draws + 1 := rfl

/-! ### A buffer write -/

@[simp] theorem State.bufferWrite_pending (s : State) (a : Word) (b : Byte) : (s.bufferWrite a b).pending = s.pending := rfl
@[simp] theorem State.bufferWrite_err (s : State) (a : Word) (b : Byte) : (s.bufferWrite a b).err = s.err := rfl
@[simp] theorem State.bufferWrite_werr (s : State) (a : Word) (b : Byte) : (s.bufferWrite a b).werr = s.werr := rfl
@[simp] theorem State.bufferWrite_addr (s : State) (a : Word) (b : Byte) : (s.bufferWrite a b).addr = s.addr := rfl
@[simp] theorem State.bufferWrite_len (s : State) (a : Word) (b : Byte) : (s.bufferWrite a b).len = s.len := rfl
@[simp] theorem State.bufferWrite_opnd (s : State) (a : Word) (b : Byte) : (s.bufferWrite a b).opnd = s.opnd := rfl
@[simp] theorem State.bufferWrite_result (s : State) (a : Word) (b : Byte) : (s.bufferWrite a b).result = s.result := rfl
@[simp] theorem State.bufferWrite_faultaddr (s : State) (a : Word) (b : Byte) : (s.bufferWrite a b).faultaddr = s.faultaddr := rfl
@[simp] theorem State.bufferWrite_ch8 (s : State) (a : Word) (b : Byte) : (s.bufferWrite a b).ch8 = s.ch8 := rfl
@[simp] theorem State.bufferWrite_ch16 (s : State) (a : Word) (b : Byte) : (s.bufferWrite a b).ch16 = s.ch16 := rfl
@[simp] theorem State.bufferWrite_ch32 (s : State) (a : Word) (b : Byte) : (s.bufferWrite a b).ch32 = s.ch32 := rfl
@[simp] theorem State.bufferWrite_platform (s : State) (a : Word) (b : Byte) : (s.bufferWrite a b).platform = s.platform := rfl
@[simp] theorem State.bufferWrite_mem (s : State) (a : Word) (b : Byte) : (s.bufferWrite a b).mem = Memory.write s.mem a.toNat b := rfl
@[simp] theorem State.bufferWrite_raced (s : State) (a : Word) (b : Byte) : (s.bufferWrite a b).raced = if s.busy && !s.raced.contains a then a :: s.raced else s.raced := rfl
@[simp] theorem State.bufferWrite_agenda (s : State) (a : Word) (b : Byte) : (s.bufferWrite a b).agenda = s.agenda := rfl
@[simp] theorem State.bufferWrite_answers (s : State) (a : Word) (b : Byte) : (s.bufferWrite a b).answers = s.answers := rfl
@[simp] theorem State.bufferWrite_bytesRead (s : State) (a : Word) (b : Byte) : (s.bufferWrite a b).bytesRead = s.bytesRead := rfl
@[simp] theorem State.bufferWrite_draws (s : State) (a : Word) (b : Byte) : (s.bufferWrite a b).draws = s.draws := rfl

/-! ### REV -/

@[simp] theorem State.reverseOpnd_pending (s : State) (n : Nat) : (s.reverseOpnd n).pending = none := rfl
@[simp] theorem State.reverseOpnd_err (s : State) (n : Nat) : (s.reverseOpnd n).err = .ok := rfl
@[simp] theorem State.reverseOpnd_werr (s : State) (n : Nat) : (s.reverseOpnd n).werr = s.werr := rfl
@[simp] theorem State.reverseOpnd_addr (s : State) (n : Nat) : (s.reverseOpnd n).addr = s.addr := rfl
@[simp] theorem State.reverseOpnd_len (s : State) (n : Nat) : (s.reverseOpnd n).len = s.len := rfl
@[simp] theorem State.reverseOpnd_opnd (s : State) (n : Nat) : (s.reverseOpnd n).opnd = s.opnd := rfl
@[simp] theorem State.reverseOpnd_result (s : State) (n : Nat) : (s.reverseOpnd n).result = zext32 (reverseBits (s.opndLow n)) := rfl
@[simp] theorem State.reverseOpnd_faultaddr (s : State) (n : Nat) : (s.reverseOpnd n).faultaddr = s.faultaddr := rfl
@[simp] theorem State.reverseOpnd_ch8 (s : State) (n : Nat) : (s.reverseOpnd n).ch8 = s.ch8 := rfl
@[simp] theorem State.reverseOpnd_ch16 (s : State) (n : Nat) : (s.reverseOpnd n).ch16 = s.ch16 := rfl
@[simp] theorem State.reverseOpnd_ch32 (s : State) (n : Nat) : (s.reverseOpnd n).ch32 = s.ch32 := rfl
@[simp] theorem State.reverseOpnd_platform (s : State) (n : Nat) : (s.reverseOpnd n).platform = s.platform := rfl
@[simp] theorem State.reverseOpnd_mem (s : State) (n : Nat) : (s.reverseOpnd n).mem = s.mem := rfl
@[simp] theorem State.reverseOpnd_raced (s : State) (n : Nat) : (s.reverseOpnd n).raced = [] := rfl
@[simp] theorem State.reverseOpnd_agenda (s : State) (n : Nat) : (s.reverseOpnd n).agenda = s.agenda := rfl
@[simp] theorem State.reverseOpnd_answers (s : State) (n : Nat) : (s.reverseOpnd n).answers = s.answers := rfl
@[simp] theorem State.reverseOpnd_bytesRead (s : State) (n : Nat) : (s.reverseOpnd n).bytesRead = s.bytesRead := rfl
@[simp] theorem State.reverseOpnd_draws (s : State) (n : Nat) : (s.reverseOpnd n).draws = s.draws + 1 := rfl

/-! ### MKTBL of a channel -/

@[simp] theorem Channel.build_poly {w : Nat} (c : Channel w) : c.build.poly = c.poly := rfl
@[simp] theorem Channel.build_init {w : Nat} (c : Channel w) : c.build.init = c.init := rfl
@[simp] theorem Channel.build_xorout {w : Nat} (c : Channel w) : c.build.xorout = c.xorout := rfl
@[simp] theorem Channel.build_cfg {w : Nat} (c : Channel w) : c.build.cfg = c.cfg := rfl
@[simp] theorem Channel.build_tvalid {w : Nat} (c : Channel w) : c.build.tvalid = true := rfl
@[simp] theorem Channel.build_tdir {w : Nat} (c : Channel w) : c.build.tdir = c.cfg.dir := rfl
@[simp] theorem Channel.build_tblpoly {w : Nat} (c : Channel w) : c.build.tblpoly = c.poly := rfl
@[simp] theorem Channel.build_table {w : Nat} (c : Channel w) : c.build.table = buildTable c.poly c.cfg.dir := rfl

/-! ### The engine's turn put first -/

@[simp] theorem State.engineNext_pending (s : State) : (s.engineNext).pending = s.pending := rfl
@[simp] theorem State.engineNext_err (s : State) : (s.engineNext).err = s.err := rfl
@[simp] theorem State.engineNext_werr (s : State) : (s.engineNext).werr = s.werr := rfl
@[simp] theorem State.engineNext_addr (s : State) : (s.engineNext).addr = s.addr := rfl
@[simp] theorem State.engineNext_len (s : State) : (s.engineNext).len = s.len := rfl
@[simp] theorem State.engineNext_opnd (s : State) : (s.engineNext).opnd = s.opnd := rfl
@[simp] theorem State.engineNext_result (s : State) : (s.engineNext).result = s.result := rfl
@[simp] theorem State.engineNext_faultaddr (s : State) : (s.engineNext).faultaddr = s.faultaddr := rfl
@[simp] theorem State.engineNext_ch8 (s : State) : (s.engineNext).ch8 = s.ch8 := rfl
@[simp] theorem State.engineNext_ch16 (s : State) : (s.engineNext).ch16 = s.ch16 := rfl
@[simp] theorem State.engineNext_ch32 (s : State) : (s.engineNext).ch32 = s.ch32 := rfl
@[simp] theorem State.engineNext_platform (s : State) : (s.engineNext).platform = s.platform := rfl
@[simp] theorem State.engineNext_mem (s : State) : (s.engineNext).mem = s.mem := rfl
@[simp] theorem State.engineNext_raced (s : State) : (s.engineNext).raced = s.raced := rfl
@[simp] theorem State.engineNext_agenda (s : State) : (s.engineNext).agenda = .engine :: s.agenda := rfl
@[simp] theorem State.engineNext_answers (s : State) : (s.engineNext).answers = s.answers := rfl
@[simp] theorem State.engineNext_bytesRead (s : State) : (s.engineNext).bytesRead = s.bytesRead := rfl
@[simp] theorem State.engineNext_draws (s : State) : (s.engineNext).draws = s.draws := rfl

end Sys2Proof.Machine
end

