-- ==== Sys2Proof/Laws/Values.lean ====
section
/-! SUPPORT. Bit reversal by its bits, the entries of a built table, and the folds of a readable buffer. -/

namespace Sys2Proof.Machine

theorem getLsbD_bit (b : Bool) (w k i : Nat) (hk : k < w) :
    ((BitVec.ofBool b).setWidth w <<< k).getLsbD i = (b && decide (i = k)) := by
  cases b
  · simp
  · by_cases h : i = k
    · subst h
      simp [hk]
    · simp [BitVec.getLsbD_shiftLeft, h]
      omega

/-- A bit of a register word made of one flag. -/
theorem getLsbD_bitAt (b : Bool) (i j : Nat) (hi : i < 32) : (bitAt b i).getLsbD j = (b && decide (j = i)) :=
  getLsbD_bit b 32 i j hi

theorem getLsbD_reverseLoop {w : Nat} (v : BitVec w) (k i : Nat) (hk : k ≤ w) (hi : i < w) :
    (reverseLoop v k).getLsbD i = (decide (w - 1 - i < k) && v.getLsbD (w - 1 - i)) := by
  induction k with
  | zero => simp [reverseLoop]
  | succ k ih =>
    rw [reverseLoop, BitVec.getLsbD_or, ih (by omega), getLsbD_bit _ _ _ _ (by omega)]
    by_cases h : i = w - 1 - k
    · simp [h, show w - 1 - (w - 1 - k) = k by omega]
    · have h2 : (w - 1 - i < k + 1) ↔ (w - 1 - i < k) := by omega
      simp [h, h2]

/-- Bit i of the reversed value is bit w-1-i (42_bit_reversal.md R150). -/
theorem getLsbD_reverseBits {w : Nat} (v : BitVec w) (i : Nat) (hi : i < w) :
    (reverseBits v).getLsbD i = v.getLsbD (w - 1 - i) := by
  rw [reverseBits, getLsbD_reverseLoop v w i (le_refl w) hi]
  simp [show w - 1 - i < w by omega]

/-- An entry of a built table is the builder's entry. -/
@[simp] theorem tableEntry_buildTable {w : Nat} (poly : BitVec w) (dir : Dir) (i : Byte) :
    tableEntry (buildTable poly dir) i = builderEntry poly dir i := by
  simp [tableEntry, buildTable]

theorem addresses_succ (f : Nat → Word) (k n : Nat) (log : List Word) :
    ((List.range n).map fun j => f (k + 1 + j)).reverse ++ f k :: log =
      ((List.range (n + 1)).map fun j => f (k + j)).reverse ++ log := by
  have h : (fun j => f (k + 1 + j)) = (fun j => f (k + j)) ∘ Nat.succ := by
    funext j
    simp only [Function.comp, Nat.succ_eq_add_one]
    congr 1
    omega
  rw [List.range_succ_eq_map, List.map_cons, List.map_map, ← h]
  simp

/-- Reading a whole readable buffer: the fold of its bytes, in order, and the addresses read. -/
theorem foldBytes_done {w : Nat} (s : State) (refin : Bool) (stp : BitVec w → Byte → BitVec w) (bs : List Byte)
    (k : Nat) (c : BitVec w) (log : List Word)
    (h : ∀ j (hj : j < bs.length), s.memRead (s.bufferAddress (k + j)) = .byte (bs[j])) :
    s.foldBytes refin stp bs.length k c log =
      .done (bs.foldl (fun c b => stp c (inputByte refin b)) c)
        (((List.range bs.length).map fun j => s.bufferAddress (k + j)).reverse ++ log) := by
  induction bs generalizing k c log with
  | nil => simp [State.foldBytes]
  | cons b bs ih =>
    have h0 := h 0 (by simp)
    simp only [Nat.add_zero, List.getElem_cons_zero] at h0
    have ht : ∀ j (hj : j < bs.length), s.memRead (s.bufferAddress (k + 1 + j)) = .byte (bs[j]) := by
      intro j hj
      have := h (j + 1) (by simp; omega)
      simpa [Nat.add_assoc, Nat.add_comm 1 j] using this
    simp only [List.length_cons, State.foldBytes, h0]
    rw [ih (k + 1) _ _ ht]
    rw [addresses_succ]
    rfl

/-- A fold stops at the first byte whose read faults, with the reads before it made. -/
theorem foldBytes_fault {w : Nat} (s : State) (refin : Bool) (stp : BitVec w → Byte → BitVec w) (bs : List Byte)
    (n k : Nat) (c : BitVec w) (log : List Word)
    (h : ∀ j (hj : j < bs.length), s.memRead (s.bufferAddress (k + j)) = .byte (bs[j]))
    (hf : s.memRead (s.bufferAddress (k + bs.length)) = .fault) (hn : bs.length < n) :
    s.foldBytes refin stp n k c log =
      .busFault (s.bufferAddress (k + bs.length))
        (((List.range bs.length).map fun j => s.bufferAddress (k + j)).reverse ++ log) := by
  induction bs generalizing n k c log with
  | nil =>
    obtain ⟨n, rfl⟩ : ∃ m, n = m + 1 := ⟨n - 1, by simp at hn; omega⟩
    simp only [List.length_nil, Nat.add_zero] at hf ⊢
    simp [State.foldBytes, hf]
  | cons b bs ih =>
    obtain ⟨n, rfl⟩ : ∃ m, n = m + 1 := ⟨n - 1, by simp at hn; omega⟩
    have h0 := h 0 (by simp)
    simp only [Nat.add_zero, List.getElem_cons_zero] at h0
    have ht : ∀ j (hj : j < bs.length), s.memRead (s.bufferAddress (k + 1 + j)) = .byte (bs[j]) := by
      intro j hj
      have := h (j + 1) (by simp; omega)
      simpa [Nat.add_assoc, Nat.add_comm 1 j] using this
    have hf' : s.memRead (s.bufferAddress (k + 1 + bs.length)) = .fault := by
      simpa [Nat.add_assoc, Nat.add_comm 1] using hf
    simp only [State.foldBytes, h0]
    rw [ih n (k + 1) _ _ ht hf' (by simpa using hn)]
    rw [addresses_succ]
    simp [Nat.add_assoc, Nat.add_comm 1]

end Sys2Proof.Machine
end

