-- ==== Sys2Proof/Laws/Step.lean ====
section
/-! SUPPORT. What each shared operation can do, said once: reads of the buffer port, a CALC, host writes, host reads,
the engine's turn, and one step of the machine. -/

namespace Sys2Proof.Machine

/-! ### The buffer port -/

/-- The port's answer depends on the platform, the raced bytes, the draws and memory only. -/
theorem memRead_congr {s s' : State} (a : Word) (hp : s'.platform = s.platform) (hr : s'.raced = s.raced)
    (hd : s'.draws = s.draws) (hm : a ∉ s.raced → Memory.read s'.mem a.toNat = Memory.read s.mem a.toNat) :
    s'.memRead a = s.memRead a := by
  unfold State.memRead
  rw [hp, hr, hd]
  by_cases h : a ∈ s.raced
  · simp [h]
  · rw [hm h]

/-- The port answers `sideEffect` only inside a side-effecting region. -/
theorem memRead_ne_sideEffect {s : State} (h : s.platform.sideEffecting = []) (a : Word) :
    s.memRead a ≠ .sideEffect := by
  unfold State.memRead readHasSideEffect
  rw [h]
  simp only [List.any_nil, Bool.false_eq_true, if_false]
  split_ifs <;> try simp
  split <;> simp

/-! ### The fold -/

/-- The fold depends on the port's answers at the addresses it covers and on the step's values. -/
theorem foldBytes_congr {w : Nat} {s s' : State} (refin : Bool) {stp stp' : BitVec w → Byte → BitVec w}
    (hstp : ∀ c b, stp' c b = stp c b) (haddr : s'.addr = s.addr) (n k : Nat) (c : BitVec w) (log : List Word)
    (h : ∀ j, k ≤ j → j < k + n → s'.memRead (s.bufferAddress j) = s.memRead (s.bufferAddress j)) :
    s'.foldBytes refin stp' n k c log = s.foldBytes refin stp n k c log := by
  have hadr : ∀ j, s'.bufferAddress j = s.bufferAddress j := fun j => by
    unfold State.bufferAddress; rw [haddr]
  induction n generalizing k c log with
  | zero => rfl
  | succ n ih =>
    simp only [State.foldBytes, hadr, h k (le_refl k) (by omega)]
    cases s.memRead (s.bufferAddress k) with
    | byte b => simp only [hstp]; exact ih _ _ _ fun j hj hj' => h j (by omega) (by omega)
    | fault => rfl
    | sideEffect => rfl

/-- The record of reads does not steer the fold. -/
theorem foldBytes_not_refused {w : Nat} {s : State} (refin : Bool) (stp : BitVec w → Byte → BitVec w)
    (n k : Nat) (c : BitVec w) (log : List Word)
    (h : ∀ j, k ≤ j → j < k + n → s.memRead (s.bufferAddress j) ≠ .sideEffect) :
    (∃ c' l, s.foldBytes refin stp n k c log = .done c' l) ∨
      ∃ a l, s.foldBytes refin stp n k c log = .busFault a l := by
  induction n generalizing k c log with
  | zero => exact .inl ⟨c, log, rfl⟩
  | succ n ih =>
    simp only [State.foldBytes]
    cases hm : s.memRead (s.bufferAddress k) with
    | byte b => exact ih _ _ _ fun j hj hj' => h j (by omega) (by omega)
    | fault => exact .inr ⟨_, _, rfl⟩
    | sideEffect => exact absurd hm (h k (le_refl k) (by omega))

/-! ### CALC -/

/-- Everything a CALC that answers a next state can have done. -/
theorem calc_cases {w : Nat} {s t : State} {ch : Channel w} {stp : BitVec w → Byte → BitVec w}
    (h : s.calc ch stp = .next t) :
    (ch.tvalid = false ∧ t = s.raise .noTable) ∨
    (ch.tvalid = true ∧ s.outOfRange = true ∧ t = s.raise .range) ∨
    (ch.tvalid = true ∧ s.outOfRange = false ∧ ∃ c log,
      s.foldBytes ch.cfg.refin stp s.len.toNat 0 ch.init s.bytesRead = .done c log ∧
      t = ({ s with result := zext32 (ch.finalValue c), bytesRead := log }).finish .ok) ∨
    (ch.tvalid = true ∧ s.outOfRange = false ∧ ∃ a log,
      s.foldBytes ch.cfg.refin stp s.len.toNat 0 ch.init s.bytesRead = .busFault a log ∧
      t = ({ s with bytesRead := log }).raise (.busFault a)) := by
  unfold State.calc at h
  cases hv : ch.tvalid with
  | false => simp [hv] at h; exact .inl ⟨rfl, h.symm⟩
  | true =>
    cases hr : s.outOfRange with
    | true => simp [hv, hr] at h; exact .inr (.inl ⟨rfl, rfl, h.symm⟩)
    | false =>
      simp only [hv, hr, Bool.not_true, Bool.false_eq_true, if_false] at h
      cases hf : s.foldBytes ch.cfg.refin stp s.len.toNat 0 ch.init s.bytesRead with
      | done c log =>
        simp only [hf, Host.Outcome.next.injEq] at h
        exact .inr (.inr (.inl ⟨rfl, rfl, c, log, rfl, h.symm⟩))
      | busFault a log =>
        simp only [hf, Host.Outcome.next.injEq] at h
        exact .inr (.inr (.inr ⟨rfl, rfl, a, log, rfl, h.symm⟩))
      | sideEffect a => simp [hf] at h

/-- What a CALC leaves in every field but ERR, RESULT, FAULTADDR and the record of reads. -/
theorem calc_next {w : Nat} {s t : State} {ch : Channel w} {stp : BitVec w → Byte → BitVec w}
    (h : s.calc ch stp = .next t) :
    t = { s with
      pending := none, raced := [], draws := s.draws + 1, err := t.err, result := t.result,
      faultaddr := t.faultaddr, bytesRead := t.bytesRead } := by
  rcases calc_cases h with ⟨-, rfl⟩ | ⟨-, -, rfl⟩ | ⟨-, -, c, log, -, rfl⟩ | ⟨-, -, a, log, -, rfl⟩ <;> rfl

/-- Where CALC leaves RESULT: changed only with OK. -/
theorem calc_result {w : Nat} {s t : State} {ch : Channel w} {stp : BitVec w → Byte → BitVec w}
    (h : s.calc ch stp = .next t) : t.err = .ok ∨ t.result = s.result := by
  rcases calc_cases h with ⟨-, rfl⟩ | ⟨-, -, rfl⟩ | ⟨-, -, c, log, -, rfl⟩ | ⟨-, -, a, log, -, rfl⟩
  · exact .inr rfl
  · exact .inr rfl
  · exact .inl rfl
  · exact .inr rfl

/-- Where CALC leaves FAULTADDR: changed only with BUS_FAULT. -/
theorem calc_faultaddr {w : Nat} {s t : State} {ch : Channel w} {stp : BitVec w → Byte → BitVec w}
    (h : s.calc ch stp = .next t) : t.err = .busFault ∨ t.faultaddr = s.faultaddr := by
  rcases calc_cases h with ⟨-, rfl⟩ | ⟨-, -, rfl⟩ | ⟨-, -, c, log, -, rfl⟩ | ⟨-, -, a, log, -, rfl⟩
  · exact .inr rfl
  · exact .inr rfl
  · exact .inr rfl
  · exact .inl rfl

/-! ### Every command -/

/-- Everything a command that answers a next state can have changed: the end of the engine step, and the
registers its own rule writes. -/
theorem exec_next {i : Instr} {s t : State} (h : exec i s = .next t) :
    t = { s with
      pending := none, raced := [], draws := s.draws + 1, err := t.err, result := t.result,
      faultaddr := t.faultaddr, bytesRead := t.bytesRead, ch8 := t.ch8, ch16 := t.ch16, ch32 := t.ch32 } := by
  cases i <;> simp only [exec, execNop, execMktbl8, execMktbl16, execMktbl32, execRev8, execRev16, execRev32,
    execCalc8, execCalc16, execCalc32, Host.Outcome.next.injEq] at h
  case calc8 | calc16 | calc32 => rw [calc_next h]
  all_goals subst h; rfl

/-! ### Host accesses -/

/-- A host access changes the block only by a write that reaches it: WERR alone while BUSY = 1, else the
register written. -/
theorem hostStore_cases (s : State) (off : Nat) (v : Word) :
    (s.busy = true ∧ regAt off ≠ some .status ∧ s.hostStore off v = { s with werr := true }) ∨
    (regAt off = none ∧ s.busy = false ∧ s.hostStore off v = s) ∨
    (∃ r, regAt off = some r ∧ (s.busy = false ∨ r = .status) ∧ s.hostStore off v = s.writeReg r v) := by
  unfold State.hostStore
  cases hb : s.busy with
  | true =>
    by_cases hr : regAt off = some .status
    · simp [hr]
    · exact .inl ⟨rfl, hr, by simp [hr]⟩
  | false =>
    cases hr : regAt off with
    | none => exact .inr (.inl ⟨rfl, rfl, by simp⟩)
    | some r => exact .inr (.inr ⟨r, rfl, .inl rfl, by simp⟩)

/-- Everything a host write can do. -/
theorem hostWrite_cases (s : State) (a bits : Nat) (v : Word) :
    (windowOffset s.platform a = none ∧ s.hostWrite a bits v = s.answer .notSelected) ∨
    (∃ off, windowOffset s.platform a = some off ∧ accessOk off bits = false ∧
      s.hostWrite a bits v = s.answer .busError) ∨
    (∃ off, windowOffset s.platform a = some off ∧ accessOk off bits = true ∧
      s.hostWrite a bits v = ((s.hostStore off v).redraw).answer .written) := by
  unfold State.hostWrite
  cases hw : windowOffset s.platform a with
  | none => exact .inl ⟨rfl, rfl⟩
  | some off =>
    cases ha : accessOk off bits with
    | false => exact .inr (.inl ⟨off, rfl, ha, by simp [ha]⟩)
    | true => exact .inr (.inr ⟨off, rfl, ha, by simp [ha]⟩)

/-- A host read records one answer and changes nothing else. -/
theorem hostRead_eq (s : State) (a bits : Nat) : ∃ x, s.hostRead a bits = s.answer x := by
  unfold State.hostRead
  split
  · exact ⟨_, rfl⟩
  · split
    · exact ⟨_, rfl⟩
    · exact ⟨_, rfl⟩

/-- What a host write leaves of everything that is no writable register: it changes the pending command and the
raced bytes only by latching, and no table or binding. -/
theorem hostStore_frame (s : State) (off : Nat) (v : Word) :
    s.hostStore off v = { s with
      pending := (s.hostStore off v).pending, raced := (s.hostStore off v).raced,
      werr := (s.hostStore off v).werr, addr := (s.hostStore off v).addr, len := (s.hostStore off v).len,
      opnd := (s.hostStore off v).opnd, ch8 := (s.hostStore off v).ch8, ch16 := (s.hostStore off v).ch16,
      ch32 := (s.hostStore off v).ch32 } := by
  rcases hostStore_cases s off v with ⟨-, -, h⟩ | ⟨-, -, h⟩ | ⟨r, -, -, h⟩ <;> rw [h]
  cases r with
  | chan n c => cases n <;> rfl
  | status => simp only [State.writeReg]; split <;> rfl
  | _ => rfl

/-- A write of a channel register leaves the table and its binding. -/
theorem Channel.store_binding {w : Nat} (c : Channel w) (r : ChanReg) (v : Word) :
    (c.store r v).tvalid = c.tvalid ∧ (c.store r v).tdir = c.tdir ∧ (c.store r v).tblpoly = c.tblpoly ∧
      (c.store r v).table = c.table := by
  cases r <;> exact ⟨rfl, rfl, rfl, rfl⟩

/-! ### The engine's turn and the step -/

/-- Everything the engine's turn can do. -/
theorem engineTurn_cases {s t : State} (h : s.engineTurn = .next t) :
    (s.pending = none ∧ t = s) ∨
    (∃ w e, s.pending = some w ∧ decode w = .error e ∧ t = s.raise .illegalCmd) ∨
    (∃ w i, s.pending = some w ∧ decode w = .ok i ∧ exec i s = .next t) := by
  unfold State.engineTurn State.idleTurn State.illegalTurn State.fetched at h
  cases hp : s.pending with
  | none =>
    simp only [hp, Host.Outcome.next.injEq] at h
    exact .inl ⟨rfl, h.symm⟩
  | some w =>
    simp only [hp] at h
    cases hd : decode w with
    | error e =>
      simp only [hd, Host.Outcome.next.injEq] at h
      exact .inr (.inl ⟨w, e, rfl, hd, h.symm⟩)
    | ok i =>
      simp only [hd] at h
      exact .inr (.inr ⟨w, i, rfl, hd, h⟩)

/-- Everything a step that answers a next state can be. -/
theorem step_cases {s t : State} (h : step s = .next t) :
    (s.nextEvent = .engine ∧ s.popEvent.engineTurn = .next t) ∨
    (∃ a bits, s.nextEvent = .hostRead a bits ∧ t = s.popEvent.hostRead a bits) ∨
    (∃ a bits v, s.nextEvent = .hostWrite a bits v ∧ t = s.popEvent.hostWrite a bits v) ∨
    (∃ a b, s.nextEvent = .bufferWrite a b ∧ t = s.popEvent.bufferWrite a b) ∨
    (s.nextEvent = .reset ∧ t = s.popEvent.resetRegisters) := by
  unfold step State.move State.worldMove at h
  cases he : s.nextEvent with
  | engine => simp only [he] at h; exact .inl ⟨rfl, h⟩
  | hostRead a bits =>
    simp only [he, Host.Outcome.next.injEq] at h
    exact .inr (.inl ⟨a, bits, rfl, h.symm⟩)
  | hostWrite a bits v =>
    simp only [he, Host.Outcome.next.injEq] at h
    exact .inr (.inr (.inl ⟨a, bits, v, rfl, h.symm⟩))
  | bufferWrite a b =>
    simp only [he, Host.Outcome.next.injEq] at h
    exact .inr (.inr (.inr (.inl ⟨a, b, rfl, h.symm⟩)))
  | reset =>
    simp only [he, Host.Outcome.next.injEq] at h
    exact .inr (.inr (.inr (.inr ⟨rfl, h.symm⟩)))

/-! ### Runs -/

@[simp] theorem run_zero (s : State) : Sys2Proof.core.run 0 s = .next s := rfl

/-- A run whose first step answers a next state goes on from there. -/
theorem run_next {s t : State} (k : Nat) (h : step s = .next t) :
    Sys2Proof.core.run (k + 1) s = Sys2Proof.core.run k t := by
  have h' : Sys2Proof.core.step s = .next t := h
  simp only [Host.Core.run, h']

end Sys2Proof.Machine
end

