-- ==== Sys2Proof/Tests/Slice0.lean ====
section
/-! SUPPORT. The model's own tests: words written out from the spec's encoding, the spec's vectors
(spec/95_test_vectors.md, named at each test), ill-formed words, and for every statement a state that meets its
hypotheses. -/

namespace Sys2Proof.Tests

open Sys2Proof.Machine

/-! ### Helpers -/

/-- The bytes of "123456789" (00_scope.md R13). -/
def checkString : List Byte := [0x31, 0x32, 0x33, 0x34, 0x35, 0x36, 0x37, 0x38, 0x39]

/-- Reset, with bytes in buffer memory at an address and ADDR, LEN naming them. -/
def withBuffer (a : Nat) (bs : List Byte) : State :=
  { State.reset with
    addr := BitVec.ofNat 32 a
    len := BitVec.ofNat 32 bs.length
    mem := ((List.range bs.length).zip bs).map fun c => (a + c.1, c.2) }

/-- A channel whose table has been built. -/
def builtChannel {w : Nat} (poly init xorout : BitVec w) (refin refout : Bool) (d : Dir) : Channel w where
  poly := poly
  init := init
  xorout := xorout
  cfg := { refin := refin, refout := refout, dir := d }
  tvalid := true
  tdir := d
  tblpoly := poly
  table := buildTable poly d

/-- A field of the next state. -/
def ofNext {α : Type} (f : State → α) : Host.Outcome State Fault Refusal → Option α
  | .next t => some (f t)
  | .fault _ => none
  | .refused _ => none

/-- The STATUS word as read. -/
def statusOf (s : State) : Word := s.hostLoad 0x004

/-! ### Decoding: words written out bit by bit (30_encoding.md R80 to R83) -/

/-- Z = 0, CLS = 0, WC = 0. -/
theorem test_decode_nop : decode (0x000000#24 ++ 0x0#4 ++ 0x0#4) = .ok .nop := rfl
/-- CLS = 1, WC = 1. -/
theorem test_decode_mktbl8 : decode (0x000000#24 ++ 0x1#4 ++ 0x1#4) = .ok .mktbl8 := rfl
theorem test_decode_mktbl16 : decode (0x000000#24 ++ 0x1#4 ++ 0x2#4) = .ok .mktbl16 := rfl
theorem test_decode_mktbl32 : decode (0x000000#24 ++ 0x1#4 ++ 0x3#4) = .ok .mktbl32 := rfl
/-- CLS = 2. -/
theorem test_decode_calc8 : decode (0x000000#24 ++ 0x2#4 ++ 0x1#4) = .ok .calc8 := rfl
theorem test_decode_calc16 : decode (0x000000#24 ++ 0x2#4 ++ 0x2#4) = .ok .calc16 := rfl
theorem test_decode_calc32 : decode (0x000000#24 ++ 0x2#4 ++ 0x3#4) = .ok .calc32 := rfl
/-- CLS = 3. -/
theorem test_decode_rev8 : decode (0x000000#24 ++ 0x3#4 ++ 0x1#4) = .ok .rev8 := rfl
theorem test_decode_rev16 : decode (0x000000#24 ++ 0x3#4 ++ 0x2#4) = .ok .rev16 := rfl
theorem test_decode_rev32 : decode (0x000000#24 ++ 0x3#4 ++ 0x3#4) = .ok .rev32 := rfl

/-- Each reason of rejection (30_encoding.md R86; V-E8). -/
theorem test_decode_rejects :
    decode 0x80000011 = .error .zNotZero ∧ decode 0x00000041 = .error .reservedClass ∧
      decode 0x00000014 = .error .reservedWidthCode ∧ decode 0x00000030 = .error .reservedWidthCode ∧
      decode 0x00000001 = .error .nopWidthCode := ⟨rfl, rfl, rfl, rfl, rfl⟩

/-! ### Well-formedness: an ill-formed term for each check -/

theorem test_wf_z : (CmdFields.mk 0x000001 0x1 0x1).zOk = false ∧ (CmdFields.mk 0x000001 0x1 0x1).wf = false := by
  decide
theorem test_wf_cls : (CmdFields.mk 0 0x4 0x1).clsOk = false ∧ (CmdFields.mk 0 0x4 0x1).wf = false := by decide
theorem test_wf_wc : (CmdFields.mk 0 0x2 0x4).wcOk = false ∧ (CmdFields.mk 0 0x2 0x4).wf = false := by decide
theorem test_wf_wc_zero : (CmdFields.mk 0 0x3 0x0).wf = false := by decide
theorem test_wf_wc_of_nop : (CmdFields.mk 0 0x0 0x1).wf = false := by decide
theorem test_wf_legal : (CmdFields.mk 0 0x2 0x3).wf = true := by decide
theorem test_wf_instr : Instr.calc32.wf = true := rfl

/-! ### Assembler (30_encoding.md R87 to R89) -/

theorem test_mnemonics_and_aliases :
    commandOfName "MKTBL32" = some .mktbl32 ∧ commandOfName "Make_CRC8Table" = some .mktbl8 ∧
      commandOfName "Calc_CRC16" = some .calc16 ∧ commandOfName "reverse32" = some .rev32 ∧
      commandOfName "FOO" = none := by decide

/-- P1 lines 1 and 5. -/
theorem test_line_encoding :
    lineEncoding (.wr (.chan .w32 .poly) 0x04C11DB7) = some (0x3000, some 0x04C11DB7) ∧
      lineEncoding (.cmd .mktbl32) = some (0x000, some 0x00000013) ∧
      lineEncoding (.rd .status) = some (0x004, none) := by decide

/-! ### NOP -/

/-- V-N1. -/
theorem test_nop_clears_err :
    ofNext statusOf (exec .nop { State.reset with err := .noTable, pending := some 0 }) = some 0x00000000 := by
  decide
/-- V-N2. -/
theorem test_nop_keeps_werr :
    ofNext statusOf (exec .nop { State.reset with werr := true, pending := some 0 }) = some 0x00000100 := by
  decide

/-! ### REV -/

/-- V-R1. -/
theorem test_rev8 : ofNext State.result (exec .rev8 { State.reset with opnd := 0xFFFFFF01 }) = some 0x80 := by
  decide +kernel
theorem test_rev8_b : ofNext State.result (exec .rev8 { State.reset with opnd := 0x31 }) = some 0x8C := by
  decide +kernel
/-- V-R2. -/
theorem test_rev16 : ofNext State.result (exec .rev16 { State.reset with opnd := 0xABCD0001 }) = some 0x8000 := by
  decide +kernel
theorem test_rev16_b : ofNext State.result (exec .rev16 { State.reset with opnd := 0x1234 }) = some 0x2C48 := by
  decide +kernel
/-- V-R3. -/
theorem test_rev32 : ofNext State.result (exec .rev32 { State.reset with opnd := 0x04C11DB7 }) = some 0xEDB88320 := by
  decide +kernel

/-! ### MKTBL -/

/-- Some entries of channel 0 after MKTBL8. -/
def table8At (l : List Byte) (t : State) : List (BitVec 8) := l.map (tableEntry t.ch8.table)
/-- Some entries of channel 1. -/
def table16At (l : List Byte) (t : State) : List (BitVec 16) := l.map (tableEntry t.ch16.table)
/-- Some entries of channel 2. -/
def table32At (l : List Byte) (t : State) : List (BitVec 32) := l.map (tableEntry t.ch32.table)

/-- V-B1. -/
theorem test_mktbl8_left :
    ofNext (table8At [0x00, 0x01, 0x03, 0x80, 0xFF])
        (exec .mktbl8 { State.reset with ch8 := { Channel.reset 8 with poly := 0x31 } }) =
      some [0x00, 0x31, 0x53, 0x7A, 0xAC] := by decide +kernel
/-- V-B2c, V-B11: Right, and TBLSTAT8 = 0x5. -/
theorem test_mktbl8_right :
    ofNext (fun t => (table8At [0x01, 0x80, 0xFF] t, t.regValue (.chan .w8 .tblstat)))
        (exec .mktbl8 { State.reset with
          ch8 := { Channel.reset 8 with poly := 0x31, cfg := Cfg.ofWord 0x7 } }) =
      some ([0x04, 0x31, 0x22], 0x5) := by decide +kernel
/-- V-B3. -/
theorem test_mktbl16_left :
    ofNext (table16At [0x01, 0x02, 0x73, 0xFF])
        (exec .mktbl16 { State.reset with ch16 := { Channel.reset 16 with poly := 0x8005 } }) =
      some [0x8005, 0x800F, 0x8129, 0x0202] := by decide +kernel
/-- V-B4. -/
theorem test_mktbl16_right :
    ofNext (table16At [0x01, 0x80, 0xCE])
        (exec .mktbl16 { State.reset with
          ch16 := { Channel.reset 16 with poly := 0xA001, cfg := Cfg.ofWord 0x4 } }) =
      some [0xC0C1, 0xA001, 0x9481] := by decide +kernel
/-- V-B5. -/
theorem test_mktbl32_left :
    ofNext (table32At [0x01, 0x80, 0xFF])
        (exec .mktbl32 { State.reset with ch32 := { Channel.reset 32 with poly := 0x04C11DB7 } }) =
      some [0x04C11DB7, 0x690CE0EE, 0xB1F740B4] := by decide +kernel
/-- V-B6. -/
theorem test_mktbl32_right :
    ofNext (table32At [0x01, 0x02, 0xFF])
        (exec .mktbl32 { State.reset with
          ch32 := { Channel.reset 32 with poly := 0xEDB88320, cfg := Cfg.ofWord 0x4 } }) =
      some [0x77073096, 0xEE0E612C, 0x2D02EF8D] := by decide +kernel

/-! ### CALC -/

/-- V-K1; V-F8: width-8 Right mode, both values of RIGHT8_FOLD. -/
theorem test_calc8 :
    let s := { withBuffer 0x2000 [0x31, 0x32] with ch8 := builtChannel 0x8C 0x00 0x00 false false .right }
    ofNext State.result (exec .calc8 { withBuffer 0x2000 checkString with
        ch8 := builtChannel 0x31 0x00 0x00 true true .left }) = some 0xA1 ∧
      ofNext State.result (exec .calc8 s) = some 0x0B ∧
      ofNext State.result
        (exec .calc8 { s with platform := { s.platform with right8Fold := .generic } }) = some 0xEB := by
  decide +kernel
/-- A channel 0 with a built table. -/
def s8 : State := { State.reset with ch8 := builtChannel 0x31 0x12 0x0F false true .left }
/-- V-E3, V-E4, V-E5 with V-F1: RANGE, the last byte of the address space, the empty buffer. -/
theorem test_calc8_bounds :
    ofNext (fun t => (statusOf t, t.result)) (exec .calc8 { s8 with addr := 0xFFFFFFFF, len := 2 }) =
        some (0x00000030, 0) ∧
      ofNext (fun t => (statusOf t, t.bytesRead))
          (exec .calc8 { s8 with addr := 0xFFFFFFFF, len := 1, mem := [(0xFFFFFFFF, 0x00)] }) =
        some (0x00000000, [0xFFFFFFFF]) ∧
      ofNext State.result (exec .calc8 { s8 with addr := 0xFFFFFFFF, len := 0 }) = some 0xB8 := by
  decide +kernel
/-- V-K2; V-F6 (Right). -/
theorem test_calc16 :
    ofNext State.result (exec .calc16 { withBuffer 0x2000 checkString with
        ch16 := builtChannel 0x8005 0xFFFF 0x0000 true true .left }) = some 0x4B37 ∧
      ofNext State.result (exec .calc16 { withBuffer 0x2000 [0x01] with
        ch16 := builtChannel 0xA001 0xFFFF 0x0000 false false .right }) = some 0x807E := by decide +kernel
/-- V-E2 (NO_TABLE even for an empty buffer), V-E7 (NO_TABLE before RANGE). -/
theorem test_no_table :
    ofNext (fun t => (statusOf t, t.bytesRead)) (exec .calc16 State.reset) = some (0x00000020, []) ∧
      ofNext (fun t => (statusOf t, t.bytesRead))
        (exec .calc32 { State.reset with addr := 0xFFFFFFF0, len := 0x100 }) = some (0x00000020, []) := by
  decide +kernel
/-- V-K3; V-F12, second setting (Right). -/
theorem test_calc32 :
    ofNext State.result (exec .calc32 { withBuffer 0x2000 checkString with
        ch32 := builtChannel 0x04C11DB7 0xFFFFFFFF 0xFFFFFFFF true true .left }) = some 0xCBF43926 ∧
      ofNext State.result (exec .calc32 { withBuffer 0x2000 [0x00] with
        ch32 := builtChannel 0xEDB88320 0xFFFFFFFF 0x00000000 false false .right }) = some 0x2DFD1072 := by
  decide +kernel
/-- The platform of V-E6: BUF_OK is false at 0x2004 only. -/
def holeAt2004 : Platform :=
  { defaultPlatform with readable := [{ base := 0, size := 0x2004 }, { base := 0x2005, size := addressSpace - 0x2005 }] }
/-- V-E6. -/
theorem test_calc32_bus_fault :
    ofNext (fun t => (statusOf t, t.faultaddr, t.result, t.bytesRead))
        (exec .calc32 { withBuffer 0x2000 checkString with
          platform := holeAt2004
          result := 0x1234
          ch32 := builtChannel 0x04C11DB7 0xFFFFFFFF 0xFFFFFFFF true true .left }) =
      some (0x00000040, 0x2004, 0x1234, [0x2003, 0x2002, 0x2001, 0x2000]) := by decide +kernel
/-- V-E8. -/
theorem test_illegal_word :
    ofNext statusOf (step { State.reset with pending := some 0x000000F3 }) = some 0x00000010 := by decide +kernel

/-! ### The host's side -/

/-- V-H1. -/
theorem test_write_poly16 :
    (State.reset.hostStore (regOffset (.chan .w16 .poly)) 0x00012345).hostLoad 0x2000 = 0x2345 := by
  decide +kernel
/-- V-H2. -/
theorem test_write_cfg8 : (State.reset.hostStore 0x100C 0xFFFFFFFF).hostLoad 0x100C = 0x7 := by decide +kernel
/-- V-H4. -/
theorem test_write_table_ignored : (State.reset.hostStore (0x1400 + 4 * 5) 0x77).werr = false := by decide +kernel
/-- V-H5. -/
theorem test_busy_write_refused :
    let s := { State.reset with pending := some 0x11 }
    (s.hostStore 0x1004 0x11).werr = true ∧ (s.hostStore 0x1004 0x11).ch8.init = 0 := by decide +kernel
/-- V-H6. -/
theorem test_write_status :
    statusOf ({ State.reset with werr := true, err := .range }.hostStore 0x004 0x100) = 0x30 := by decide +kernel
/-- V-H7. -/
theorem test_bad_accesses :
    ofNext State.answers (step { State.reset with agenda := [.hostWrite 0x008 16 0x55] }) = some [.busError] ∧
      ofNext State.answers (step { State.reset with agenda := [.hostRead 0x00A 32] }) = some [.busError] := by
  decide +kernel
/-- V-H3, V-H8. -/
theorem test_reads_zero : State.reset.hostLoad 0x000 = 0 ∧ State.reset.hostLoad 0x020 = 0 := by decide +kernel
/-- BASE is added to every offset (10_state.md R23); an access outside the window does not reach the block. -/
theorem test_base :
    let s := { State.reset with platform := { defaultPlatform with base := 0x40000000 } }
    ofNext State.opnd (step { s with agenda := [.hostWrite 0x40000010 32 0x31] }) = some 0x31 ∧
      ofNext State.opnd (step { s with agenda := [.hostWrite 0x10 32 0x31] }) = some 0 := by decide +kernel
/-- 10_state.md R25: a write of CMD latches. -/
theorem test_cmd_latches :
    ofNext State.pending (step { State.reset with agenda := [.hostWrite 0x000 32 0x31] }) = some (some 0x31) := by
  decide +kernel
/-- 20_memory.md R73: a byte written while a command is pending is raced, one written while idle is not. -/
theorem test_raced :
    ofNext State.raced (step { State.reset with pending := some 0x21, agenda := [.bufferWrite 5 1] }) = some [5] ∧
      ofNext State.raced (step { State.reset with agenda := [.bufferWrite 5 1] }) = some [] := by decide +kernel
/-- 70_reset_and_hazards.md R201: reset during BUSY. -/
theorem test_reset_while_busy :
    ofNext (fun t => (t.pending, t.opnd, t.werr))
        (step { State.reset with pending := some 0x31, opnd := 7, werr := true, agenda := [.reset] }) =
      some (none, 0, false) := by decide +kernel

/-! ### Witnesses: for every statement with hypotheses, a state that meets them -/

/-- A state with REV8 pending and the engine's turn next. -/
def rev8Pending : State := { State.reset with pending := some 0x31, opnd := 0x31 }

theorem witness_StepRunsThePendingCommand :
    rev8Pending.nextEvent = .engine ∧ rev8Pending.pending = some 0x31 ∧ decode 0x31 = .ok .rev8 :=
  ⟨rfl, rfl, rfl⟩
theorem witness_FetchWordRunsNext : decodeTableWord 32 0x31 = some .rev8 := rfl
theorem witness_IllegalWordEndsWithIllegalCmd :
    let s := { State.reset with pending := some 0x41 }
    s.nextEvent = .engine ∧ s.pending = some 0x41 ∧ ∀ i, encode i ≠ 0x41 :=
  ⟨rfl, rfl, fun i => by cases i <;> decide⟩
theorem witness_IdleBlockKeepsEverything :
    State.reset.pending = none ∧ State.reset.agenda = [] ∧
      ({ State.reset with agenda := [.engine] } : State).pending = none := ⟨rfl, rfl, rfl⟩
theorem witness_PendingCommandIsEventuallyExecuted :
    let s := { rev8Pending with agenda := [.hostRead 0x004 32] }
    s.platform.sideEffecting = [] ∧ s.pending = some 0x31 ∧ .reset ∉ s.agenda := ⟨rfl, rfl, by decide⟩

/-- Every channel built, "12" in the buffer. -/
def allBuilt : State :=
  { withBuffer 0x2000 [0x31, 0x32] with
    ch8 := builtChannel 0x31 0 0 false false .left
    ch16 := builtChannel 0x8005 0 0 false false .left
    ch32 := builtChannel 0x04C11DB7 0 0 false false .left }

theorem allBuilt_holds : allBuilt.BufferHolds [0x31, 0x32] := by
  intro k hk
  match k, hk with
  | 0, _ => decide +kernel +revert
  | 1, _ => decide +kernel +revert

theorem witness_StreamReducersComplete (n : Width) :
    allBuilt.tvalid n = true ∧ allBuilt.addr.toNat + allBuilt.len.toNat ≤ 2 ^ 32 ∧
      [0x31#8, 0x32#8].length = allBuilt.len.toNat ∧ allBuilt.BufferHolds [0x31, 0x32] :=
  ⟨by cases n <;> rfl, by decide, by decide, allBuilt_holds⟩
/-- The boundary: the buffer ends at the top of the address space. -/
theorem witness_StreamReducersComplete_top :
    let s := { allBuilt with addr := 0xFFFFFFFF, len := 1, mem := [(0xFFFFFFFF, 0x31)] }
    s.addr.toNat + s.len.toNat = 2 ^ 32 ∧ s.BufferHolds [0x31] := by
  refine ⟨by decide, fun k hk => ?_⟩
  match k, hk with
  | 0, _ => decide +kernel +revert
theorem witness_EmptyBufferChecksum :
    ({ allBuilt with len := 0 } : State).len = 0 ∧ (∀ n, ({ allBuilt with len := 0 } : State).tvalid n = true) ∧
      State.reset.len = 0 ∧ ∀ n, State.reset.tvalid n = false :=
  ⟨rfl, fun n => by cases n <;> rfl, rfl, fun n => by cases n <;> rfl⟩
theorem witness_CalcWithoutTableEndsWithNoTable (n : Width) : State.reset.tvalid n = false := by cases n <;> rfl
theorem witness_CalcPastTheTopEndsWithRange (n : Width) :
    let s := { allBuilt with addr := 0xFFFFFFFF, len := 2 }
    s.tvalid n = true ∧ s.addr.toNat + s.len.toNat > 2 ^ 32 := ⟨by cases n <;> rfl, by decide⟩
/-- One byte readable, the next not. -/
def faultsAt1 : State :=
  { allBuilt with platform := { defaultPlatform with readable := [{ base := 0x2000, size := 1 }] } }
theorem witness_CalcFaultingReadEndsWithBusFault (n : Width) :
    faultsAt1.tvalid n = true ∧ faultsAt1.addr.toNat + faultsAt1.len.toNat ≤ 2 ^ 32 ∧
      [0x31#8].length < faultsAt1.len.toNat ∧ faultsAt1.BufferHolds [0x31] ∧
      faultsAt1.memRead (BitVec.ofNat 32 (faultsAt1.addr.toNat + 1)) = .fault := by
  refine ⟨by cases n <;> rfl, by decide, by decide, fun k hk => ?_, by decide +kernel⟩
  match k, hk with
  | 0, _ => decide +kernel +revert
/-- One byte of memory, the next in a side-effecting region. -/
def deviceAt1 : State :=
  { allBuilt with platform := { defaultPlatform with sideEffecting := [{ base := 0x2001, size := 1 }] } }
theorem witness_CalcRefusesSideEffectingBuffers (n : Width) :
    deviceAt1.tvalid n = true ∧ deviceAt1.addr.toNat + deviceAt1.len.toNat ≤ 2 ^ 32 ∧
      [0x31#8].length < deviceAt1.len.toNat ∧ deviceAt1.BufferHolds [0x31] ∧
      deviceAt1.memRead (BitVec.ofNat 32 (deviceAt1.addr.toNat + 1)) = .sideEffect := by
  refine ⟨by cases n <;> rfl, by decide, by decide, fun k hk => ?_, by decide +kernel⟩
  match k, hk with
  | 0, _ => decide +kernel +revert
theorem witness_CalcRefusesSideEffectingBuffers_answers :
    ∀ k < State.reset.len.toNat,
      State.reset.memRead (BitVec.ofNat 32 (State.reset.addr.toNat + k)) ≠ .sideEffect := by
  intro k hk
  exact absurd hk (Nat.not_lt_zero k)
theorem witness_BufferAddressesDoNotWrap :
    let s := { State.reset with addr := 0xFFFFFFFF, len := 1 }
    s.outOfRange = false ∧ 0 < s.len.toNat := by decide

/-- The same state with another POLY and CFG.DIR in channel 0. -/
def otherPoly : State :=
  { allBuilt with ch8 := { allBuilt.ch8 with poly := 0x07, cfg := { allBuilt.ch8.cfg with dir := .right } } }
theorem witness_CalcDependsOnlyOnItsOperands :
    allBuilt.SameFold otherPoly .w8 ∧ otherPoly.addr = allBuilt.addr ∧ otherPoly.len = allBuilt.len ∧
      otherPoly.platform.right8Fold = allBuilt.platform.right8Fold ∧
      (∀ k < allBuilt.len.toNat, otherPoly.memRead (BitVec.ofNat 32 (allBuilt.addr.toNat + k)) =
        allBuilt.memRead (BitVec.ofNat 32 (allBuilt.addr.toNat + k))) ∧
      ofNext State.err (exec .calc8 allBuilt) = some .ok :=
  ⟨⟨fun _ => rfl, rfl, rfl, rfl, rfl, rfl, rfl⟩, rfl, rfl, rfl, fun _ _ => rfl, by decide +kernel⟩
theorem witness_PolyAndDirWritesReachNoCalc :
    ofNext State.err (exec (calcCommand .w8) allBuilt) = some .ok ∧
      (allBuilt.regValue (.chan .w8 .cfg)).extractLsb' 0 2 = (0x4 : Word).extractLsb' 0 2 := by decide +kernel
theorem witness_RacedBytesDoNotShow :
    let s := { allBuilt with raced := [0x2000] }
    (∀ a : Word, a ∉ s.raced →
      Memory.read [(0x2000, 0x77), (0x2001, 0x32)] a.toNat = Memory.read s.mem a.toNat) ∧
      ofNext State.err (exec .nop s) = some .ok := by
  refine ⟨fun a ha => ?_, by decide⟩
  have h : a.toNat ≠ 0x2000 := fun h => ha (by
    have : a = 0x2000 := BitVec.eq_of_toNat_eq h
    simp [this])
  simp [Memory.read, allBuilt, withBuffer, List.range_succ, h]

theorem witness_HostAccessReachesItsRegister :
    ({ State.reset with agenda := [.hostRead (0 + regOffset .opnd) 32] } : State).agenda =
        .hostRead (State.reset.platform.base + regOffset .opnd) 32 :: [] ∧
      ({ State.reset with agenda := [.hostWrite (0 + regOffset .opnd) 32 7] } : State).agenda =
        .hostWrite (State.reset.platform.base + regOffset .opnd) 32 7 :: [] := ⟨rfl, rfl⟩
theorem witness_BadAccessGetsABusError :
    let s := { State.reset with agenda := [.hostRead (State.reset.platform.base + 0x3FFF) 32] }
    0x3FFF < 0x4000 ∧ 0x3FFF % 4 ≠ 0 ∧ s.agenda = .hostRead (s.platform.base + 0x3FFF) 32 :: [] :=
  ⟨by decide, by decide, rfl⟩
/-- The other clause: a width that is not 32. -/
theorem witness_BadAccessGetsABusError_width :
    let s := { State.reset with agenda := [.hostWrite (State.reset.platform.base + 0) 16 5] }
    0 < 0x4000 ∧ 16 ≠ 32 ∧ s.agenda = .hostWrite (s.platform.base + 0) 16 5 :: [] := ⟨by decide, by decide, rfl⟩
theorem witness_HostReadsHaveNoSideEffect :
    let s := { State.reset with agenda := [.hostRead 0x014 32, .hostRead 0x014 32] }
    s.nextEvent = .hostRead 0x014 32 ∧ ∃ t, step s = .next t ∧ t.nextEvent = .hostRead 0x014 32 :=
  ⟨rfl, _, rfl, rfl⟩
theorem witness_RegisterMapIsOneToOne : 0x17FC % 4 = 0 ∧ regAt 0x17FC = some (.chan .w8 (.table 255)) := by decide
theorem reserved_001C : ∀ r, regOffset r ≠ 0x001C := by
  intro r
  cases r with
  | chan n c => cases n <;> simp only [regOffset, channelBase] <;> omega
  | _ => decide
theorem reserved_3FFC : ∀ r, regOffset r ≠ 0x3FFC := by
  intro r
  cases r with
  | chan n c =>
    have h : chanRegOffset c ≤ 0x7FC := by
      cases c with
      | table i =>
        have := i.isLt
        simp only [chanRegOffset]
        omega
      | _ => decide
    cases n <;> simp only [regOffset, channelBase] <;> omega
  | _ => decide
/-- The first and the last reserved offset. -/
theorem witness_ReservedOffsetsReadZero :
    0x001C % 4 = 0 ∧ 0x001C < 0x4000 ∧ (∀ r, regOffset r ≠ 0x001C) ∧ 0x3FFC % 4 = 0 ∧ 0x3FFC < 0x4000 ∧
      (∀ r, regOffset r ≠ 0x3FFC) ∧ State.reset.busy = false ∧ rev8Pending.busy = true :=
  ⟨by decide, by decide, reserved_001C, by decide, by decide, reserved_3FFC, rfl, rfl⟩
theorem witness_IdleWriteStoresTheWritableBits :
    State.reset.busy = false ∧ writableBits (.chan .w16 .poly) = some 0xFFFF ∧
      writableBits (.chan .w32 .init) = some 0xFFFFFFFF ∧ writableBits .len = some 0xFFFFFFFF := by decide
theorem witness_ReadOnlyWritesAreIgnored :
    State.reset.busy = false ∧ readOnly (.chan .w8 (.table 5)) = true := by decide
/-- And the last offset of the window. -/
theorem witness_BusyWritesAreRefused :
    rev8Pending.busy = true ∧ 0x1004 % 4 = 0 ∧ 0x1004 < 0x4000 ∧ 0x1004 ≠ regOffset .status ∧ 0x3FFC % 4 = 0 ∧
      0x3FFC < 0x4000 ∧ 0x3FFC ≠ regOffset .status := by decide
theorem witness_StatusFieldsAndWrite : State.reset.busy = false ∧ ((1 ≤ 3 ∧ 3 ≤ 3) ∨ 9 ≤ 3) := by decide
theorem witness_CmdWriteLatches : State.reset.busy = false := rfl
theorem witness_BusyReadsOfOtherRegisters :
    let s := { allBuilt with pending := some 0x11 }
    s.pending = some 0x11 ∧ Reg.chan .w16 (.table 3) ≠ .status ∧
      (∀ n i, Reg.chan .w16 (.table 3) = .chan n (.table i) → s.tvalid n = true) ∧
      (∀ n, (0x11 : Word) = encode (mktblOf n) → ∀ c, Reg.chan .w16 (.table 3) = .chan n c →
        c = .poly ∨ c = .init ∨ c = .xorout ∨ c = .cfg) := by
  refine ⟨rfl, by decide, ?_, ?_⟩
  · intro n i _; cases n <;> rfl
  · intro n hn c hc
    cases n with
    | w8 => simp at hc
    | w16 => exact absurd hn (by decide)
    | w32 => exact absurd hn (by decide)
/-- A built table, its last entry. -/
theorem witness_IdleReadsReturnTheFields :
    allBuilt.busy = false ∧ ∀ n i, Reg.chan .w32 (.table 255) = .chan n (.table i) → allBuilt.tvalid n = true :=
  ⟨rfl, fun n _ _ => by cases n <;> rfl⟩
theorem witness_BufferWriteThenRead :
    State.reset.busy = false ∧ bufOk State.reset.platform 0xFFFFFFFF = true ∧
      readHasSideEffect State.reset.platform 0xFFFFFFFF = false := by decide +kernel
theorem witness_ResetLeavesResetValues : ({ rev8Pending with agenda := [.reset] } : State).nextEvent = .reset := rfl
theorem witness_ResetKeepsThePlatformSide :
    let s := { rev8Pending with agenda := [.reset] }
    s.nextEvent = .reset ∧ ∃ t, step s = .next t := ⟨rfl, _, rfl⟩
theorem witness_WaitEndsWithBusyZero :
    let s := { rev8Pending with agenda := waitEvents 0 2 }
    s.platform.sideEffecting = [] ∧ s.busy = true ∧ s.agenda = waitEvents s.platform.base 2 := ⟨rfl, rfl, rfl⟩

theorem witness_NopCompletes : State.reset.busy = false := rfl
theorem witness_StepKeepsInvariant :
    ({ allBuilt with pending := some 0x12, mem := [] } : State).Inv ∧
      ∃ t, step { allBuilt with pending := some 0x12, mem := [] } = .next t :=
  ⟨⟨rfl, rfl, rfl, rfl, fun h => by simp at h⟩, _, rfl⟩
theorem witness_PlatformNeverChanges : ∃ t, step rev8Pending = .next t := ⟨_, rfl⟩
/-- The byte above the one written. -/
theorem witness_BlockNeverWritesBufferMemory :
    let s := { State.reset with agenda := [.bufferWrite 4 9] }
    (∃ t, step s = .next t) ∧ ∀ (x : Word) (b : Byte), s.nextEvent = .bufferWrite x b → x.toNat ≠ 5 := by
  refine ⟨⟨_, rfl⟩, fun x b h => ?_⟩
  have hx : (4 : Word) = x := by injection h
  subst hx
  decide
theorem witness_OnlyMktblWritesTheBinding :
    rev8Pending.nextEvent ≠ .reset ∧
      ¬ (rev8Pending.nextEvent = .engine ∧ rev8Pending.pending = some (encode (mktblOf .w8))) ∧
      ∃ t, step rev8Pending = .next t := ⟨by decide, by decide, _, rfl⟩
theorem witness_OnlyResetClearsTvalid :
    allBuilt.nextEvent ≠ .reset ∧ allBuilt.tvalid .w8 = true ∧ ∃ t, step allBuilt = .next t :=
  ⟨by decide, rfl, _, rfl⟩
theorem witness_WerrIsSticky :
    let s := { rev8Pending with werr := true }
    s.werr = true ∧ s.nextEvent ≠ .reset ∧ (∀ v, s.writesAt s.nextEvent 0x004 v → v.getLsbD 8 = false) ∧
      ∃ t, step s = .next t :=
  ⟨rfl, by decide, fun _ h => by obtain ⟨a, h, -⟩ := h; simp [State.nextEvent, rev8Pending, State.reset] at h, _, rfl⟩
theorem witness_WaitingHostSetsNoWerr :
    rev8Pending.werr = false ∧ rev8Pending.hostWaits rev8Pending.nextEvent ∧ ∃ t, step rev8Pending = .next t :=
  ⟨rfl, fun _ _ _ h => by obtain ⟨a, h, -⟩ := h; simp [State.nextEvent, rev8Pending, State.reset] at h, _, rfl⟩
theorem witness_OnlySuccessWritesResult :
    rev8Pending.nextEvent ≠ .reset ∧ ∃ t, step rev8Pending = .next t ∧ t.result ≠ rev8Pending.result :=
  ⟨by decide, _, rfl, by decide +kernel⟩
theorem witness_OnlyBusFaultWritesFaultaddr :
    ofNext State.faultaddr (step { faultsAt1 with pending := some 0x21 }) = some 0x2001 ∧
      faultsAt1.faultaddr = 0 ∧ ({ faultsAt1 with pending := some 0x21 } : State).nextEvent ≠ .reset := by
  decide +kernel
theorem witness_PendingCommandKeepsItsOperands :
    let s := { rev8Pending with agenda := [.hostWrite 0x010 32 0x99] }
    s.busy = true ∧ s.nextEvent ≠ .engine ∧ s.nextEvent ≠ .reset ∧ ∃ t, step s = .next t :=
  ⟨rfl, by decide, by decide, _, rfl⟩
theorem witness_EngineStepClearsBusy :
    rev8Pending.nextEvent = .engine ∧ State.reset.nextEvent = .engine ∧ State.reset.busy = false ∧
      ∃ t, step rev8Pending = .next t := ⟨rfl, rfl, rfl, _, rfl⟩

end Sys2Proof.Tests
end

section
/-! PROOFS. 10_state.md: the register map read backwards and the reserved offsets (R23, R40), and the registers
right after reset (R43). -/

namespace Sys2Proof.Machine

/-! ### The register found at an offset stands at that offset -/

/-- The shared part of the map (10_state.md R23). -/
theorem regOffset_of_sharedRegAt {off : Nat} {r : Reg} (h : sharedRegAt off = some r) : regOffset r = off := by
  unfold sharedRegAt at h
  split at h <;> cases h <;> rfl

/-- The registers of a channel below its table (10_state.md R23). -/
theorem chanRegOffset_of_chanScalarAt {o : Nat} {c : ChanReg} (h : chanScalarAt o = some c) :
    chanRegOffset c = o := by
  unfold chanScalarAt at h
  split at h <;> cases h <;> rfl

/-- A channel's part of the map. Alignment is needed for the table alone, whose index drops the low two bits. -/
theorem chanRegOffset_of_chanRegAt {o : Nat} {c : ChanReg} (ho : o % 4 = 0) (h : chanRegAt o = some c) :
    chanRegOffset c = o := by
  unfold chanRegAt at h
  split at h
  case isTrue => exact chanRegOffset_of_chanScalarAt h
  case isFalse hlo =>
    split at h
    case isTrue hhi =>
      cases h
      simp only [chanRegOffset, BitVec.toNat_ofNat]
      omega
    case isFalse => cases h

/-- The channel registers found in a 0x1000-byte part of the window stand there, when the part is the channel's. -/
theorem regOffset_of_chanRegAt {n : Width} {off : Nat} {r : Reg} (ho : off % 4 = 0)
    (hn : channelBase n = off / 0x1000 * 0x1000)
    (h : (chanRegAt (off % 0x1000)).map (Reg.chan n) = some r) : regOffset r = off := by
  obtain ⟨c, hc, rfl⟩ := Option.map_eq_some_iff.mp h
  have hoff : chanRegOffset c = off % 0x1000 := chanRegOffset_of_chanRegAt (by omega) hc
  simp only [regOffset]
  omega

/-- The whole map, at a multiple of 4 (10_state.md R23). -/
theorem regOffset_of_regAt {off : Nat} {r : Reg} (ho : off % 4 = 0) (h : regAt off = some r) :
    regOffset r = off := by
  unfold regAt at h
  split at h
  case h_1 => exact regOffset_of_sharedRegAt h
  case h_2 hq => exact regOffset_of_chanRegAt ho (by rw [hq]; rfl) h
  case h_3 hq => exact regOffset_of_chanRegAt ho (by rw [hq]; rfl) h
  case h_4 hq => exact regOffset_of_chanRegAt ho (by rw [hq]; rfl) h
  case h_5 => cases h

/-- No register is found at a reserved offset (10_state.md R40). -/
theorem regAt_eq_none_of_reserved {off : Nat} (ho : off % 4 = 0) (hres : ∀ r, regOffset r ≠ off) :
    regAt off = none :=
  Option.eq_none_iff_forall_ne_some.mpr fun r hr => hres r (regOffset_of_regAt ho hr)

/-! ### Host accesses at an offset where no register stands -/

theorem hostLoad_of_regAt_none (s : State) {off : Nat} (h : regAt off = none) : s.hostLoad off = 0 := by
  simp only [State.hostLoad, h]

theorem hostStore_idle_of_regAt_none {s : State} {off : Nat} (v : Word) (h : regAt off = none)
    (hb : s.busy = false) : s.hostStore off v = s := by
  rcases hostStore_cases s off v with ⟨hbusy, -, -⟩ | ⟨-, -, hs⟩ | ⟨r, hr, -, -⟩
  · simp [hb] at hbusy
  · exact hs
  · simp [h] at hr

/-- 70_reset_and_hazards.md R212, wherever the offset is not that of STATUS. -/
theorem hostStore_busy_of_regAt_ne_status {s : State} {off : Nat} (v : Word) (h : regAt off ≠ some .status)
    (hb : s.busy = true) : s.hostStore off v = { s with werr := true } := by
  rcases hostStore_cases s off v with ⟨-, -, hs⟩ | ⟨-, hidle, -⟩ | ⟨r, hr, hidle | rfl, -⟩
  · exact hs
  · simp [hb] at hidle
  · simp [hb] at hidle
  · exact absurd hr h

/-- Settles O32: the register map finds no register at a reserved offset, and then a read gives 0 and a write is
ignored, or refused with WERR set. -/
theorem reservedOffsetsReadZero : Obligations.ReservedOffsetsReadZero := by
  intro s off v ho _ hres
  have hnone : regAt off = none := regAt_eq_none_of_reserved ho hres
  exact ⟨hostLoad_of_regAt_none s hnone, hostStore_idle_of_regAt_none v hnone,
    hostStore_busy_of_regAt_ne_status v (by simp [hnone])⟩

/-! ### Reads right after reset -/

/-- While idle a read of STATUS returns ERR and WERR as they stand (10_state.md R26). -/
theorem hostLoad_status_of_idle {s : State} (hb : s.busy = false) :
    s.hostLoad 0x004 = statusWord false s.err.code s.werr := by
  have hat : regAt 0x004 = some .status := rfl
  simp [State.hostLoad, hat, State.readReg, State.readIsFree, State.readErr, hb]

theorem statusWord_reset : statusWord false ErrCode.ok.code false = 0 := rfl

/-- A read of a TABLE that no MKTBL has built since reset gives a free value (10_state.md R39). -/
theorem readReg_table_of_unbuilt {s : State} {n : Width} (i : Byte) (hv : s.tvalid n = false) :
    s.readReg (.chan n (.table i)) = Config.freeRead s.draws (regOffset (.chan n (.table i))) := by
  simp [State.readReg, State.readIsFree, State.chanReadIsFree, hv]

theorem Channel.reset_afterReset (w : Nat) : (Channel.reset w).AfterReset :=
  ⟨rfl, rfl, rfl, rfl, rfl, rfl, rfl⟩

theorem reset_tvalid (n : Width) : State.reset.tvalid n = false := by
  cases n <;> rfl

/-- What is no register (the platform, buffer memory, the model's records, the draw counter) may hold anything:
R43 asks nothing of it. The states `State.reset` and `s.resetRegisters` are both of this form. -/
theorem afterReset_of_reset_registers (s : State) (d : Nat) :
    State.AfterReset { State.reset with
      platform := s.platform, mem := s.mem, agenda := s.agenda, answers := s.answers,
      bytesRead := s.bytesRead, draws := d } where
  pending := rfl
  status := (hostLoad_status_of_idle rfl).trans statusWord_reset
  addr := rfl
  len := rfl
  opnd := rfl
  result := rfl
  faultaddr := rfl
  ch8 := Channel.reset_afterReset 8
  ch16 := Channel.reset_afterReset 16
  ch32 := Channel.reset_afterReset 32
  table n i := readReg_table_of_unbuilt i (reset_tvalid n)

/-- A step at a reset event answers the state with its registers reset, whatever is pending
(70_reset_and_hazards.md R200). -/
theorem step_of_reset {s : State} (h : s.nextEvent = .reset) : step s = .next s.popEvent.resetRegisters := by
  simp only [step, h, State.move, State.worldMove]

/-- Settles O40: both states have the reset registers, and R43 asks nothing of the rest. -/
theorem resetLeavesResetValues : Obligations.ResetLeavesResetValues :=
  ⟨afterReset_of_reset_registers State.reset 0, fun s h =>
    ⟨s.popEvent.resetRegisters, step_of_reset h, afterReset_of_reset_registers s.popEvent (s.draws + 1)⟩⟩

end Sys2Proof.Machine
end

section
/-! PROOFS. 30_encoding.md: the decoder read backwards through its fields, and the opcode map in both directions
(R80 to R84). -/

namespace Sys2Proof

/-! ### The values of the CLS and WC fields -/

/-- The CLS value of a class, the converse of `decodeCls` (30_encoding.md R81). -/
def Cls.code : Cls → BitVec 4
  | .nop => 0x0
  | .mktbl => 0x1
  | .calc => 0x2
  | .rev => 0x3

/-- The WC value of a width, the converse of `decodeWc` (30_encoding.md R82). -/
def Width.code : Width → BitVec 4
  | .w8 => 0x1
  | .w16 => 0x2
  | .w32 => 0x3

theorem eq_code_of_decodeCls {b : BitVec 4} {k : Cls} (h : decodeCls b = some k) : b = k.code := by
  unfold decodeCls at h
  split_ifs at h <;> cases h <;> assumption

theorem eq_code_of_decodeWc {b : BitVec 4} {n : Width} (h : decodeWc b = some n) : b = n.code := by
  unfold decodeWc at h
  split_ifs at h <;> cases h <;> assumption

/-! ### Fields and words -/

/-- Z, CLS and WC cover all 32 bits of a word (30_encoding.md R80). -/
theorem CmdFields.ofWord_injective : Function.Injective CmdFields.ofWord := by
  intro w v h
  obtain ⟨hz, hcls, hwc⟩ := CmdFields.mk.inj h
  simp only [← BitVec.toNat_inj, BitVec.extractLsb'_toNat, Nat.shiftRight_eq_div_pow] at hz hcls hwc
  apply BitVec.eq_of_toNat_eq
  omega

/-- The rows of the opcode map below NOP, by class and width (30_encoding.md R83). -/
theorem CmdFields.ofWord_encode_classCommand {k : Cls} (hk : k ≠ .nop) (n : Width) :
    CmdFields.ofWord (encode (classCommand k n)) = ⟨0, k.code, n.code⟩ :=
  match k with
  | .nop => absurd rfl hk
  | .mktbl => by cases n <;> rfl
  | .calc => by cases n <;> rfl
  | .rev => by cases n <;> rfl

/-- Fields that select a width are those of the command's own word. -/
theorem CmdFields.eq_ofWord_encode_classCommand {f : CmdFields} {k : Cls} {n : Width} (hz : f.z = 0)
    (hcls : decodeCls f.cls = some k) (hk : k ≠ .nop) (hwc : decodeWc f.wc = some n) :
    f = CmdFields.ofWord (encode (classCommand k n)) := by
  rw [CmdFields.ofWord_encode_classCommand hk, ← hz, ← eq_code_of_decodeCls hcls, ← eq_code_of_decodeWc hwc]

/-- Only the fields of a command's own word decode to it. -/
theorem CmdFields.eq_ofWord_encode_of_decode {f : CmdFields} {i : Instr} (h : f.decode = .ok i) :
    f = CmdFields.ofWord (encode i) := by
  unfold CmdFields.decode at h
  split at h
  case isTrue => cases h
  case isFalse hz =>
    rw [not_not] at hz
    split at h
    case h_1 => cases h
    case h_2 hcls =>
      split at h
      case isTrue hwc =>
        cases h
        calc f = ⟨f.z, f.cls, f.wc⟩ := rfl
          _ = ⟨0, Cls.nop.code, 0⟩ := by rw [hz, hwc, eq_code_of_decodeCls hcls]
          _ = CmdFields.ofWord (encode .nop) := rfl
      case isFalse => cases h
    case h_3 hcls | h_4 hcls | h_5 hcls =>
      split at h
      case h_1 => cases h
      case h_2 hwc =>
        cases h
        exact CmdFields.eq_ofWord_encode_classCommand hz hcls (by decide) hwc

/-! ### The opcode map in both directions -/

/-- Each command's word decodes to it, one law of the model per command. -/
@[simp] theorem decode_encode (i : Instr) : decode (encode i) = .ok i := by
  have roundTrip : Laws.RoundTrip.Statement i := by
    cases i with
    | nop => exact Laws.RoundTrip.nop
    | mktbl8 => exact Laws.RoundTrip.mktbl8
    | mktbl16 => exact Laws.RoundTrip.mktbl16
    | mktbl32 => exact Laws.RoundTrip.mktbl32
    | calc8 => exact Laws.RoundTrip.calc8
    | calc16 => exact Laws.RoundTrip.calc16
    | calc32 => exact Laws.RoundTrip.calc32
    | rev8 => exact Laws.RoundTrip.rev8
    | rev16 => exact Laws.RoundTrip.rev16
    | rev32 => exact Laws.RoundTrip.rev32
  obtain ⟨-, -, hdecode⟩ := roundTrip
  exact hdecode

theorem eq_encode_of_decode {w : Word} {i : Instr} (h : decode w = .ok i) : w = encode i :=
  CmdFields.ofWord_injective (CmdFields.eq_ofWord_encode_of_decode h)

/-- Decoding is an exact comparison with the words of the opcode map (30_encoding.md R84). -/
theorem decode_eq_ok_iff {w : Word} {i : Instr} : decode w = .ok i ↔ w = encode i where
  mp := eq_encode_of_decode
  mpr h := h ▸ decode_encode i

/-- Settles O1: the ten words are those of the map, a command's word decodes to it, and a word that decodes to a
command has its fields, so it is its word. -/
theorem decodeEncodeAgree : Obligations.DecodeEncodeAgree :=
  ⟨⟨rfl, rfl, rfl, rfl, rfl, rfl, rfl, rfl, rfl, rfl⟩, fun _ _ => decode_eq_ok_iff⟩

end Sys2Proof
end

section
/-! PROOFS. 40_table_builder.md: what a command leaves unchanged, MKTBL (R104 to R106), the builder in unsigned
arithmetic (R100 to R102), and the entries of a built table (R107). -/

namespace Sys2Proof.Machine

/-! ### What every command leaves unchanged -/

theorem Channel.SameConfig.refl {w : Nat} (c : Channel w) : c.SameConfig c := ⟨rfl, rfl, rfl, rfl⟩

theorem Channel.SameBinding.refl {w : Nat} (c : Channel w) : c.SameBinding c := ⟨rfl, rfl, rfl, fun _ => rfl⟩

theorem Channel.build_sameConfig {w : Nat} (c : Channel w) : c.SameConfig c.build := ⟨rfl, rfl, rfl, rfl⟩

/-- A CALC writes no channel. -/
theorem calc_channels {w : Nat} {s t : State} {ch : Channel w} {stp : BitVec w → Byte → BitVec w}
    (h : s.calc ch stp = .next t) : t.ch8 = s.ch8 ∧ t.ch16 = s.ch16 ∧ t.ch32 = s.ch32 := by
  rw [calc_next h]
  exact ⟨rfl, rfl, rfl⟩

/-- No command writes POLY, INIT, XOROUT or CFG (10_state.md R32, R34 to R36). -/
theorem exec_sameConfig {i : Instr} {s t : State} (h : exec i s = .next t) :
    s.ch8.SameConfig t.ch8 ∧ s.ch16.SameConfig t.ch16 ∧ s.ch32.SameConfig t.ch32 := by
  cases i with
  | calc8 | calc16 | calc32 =>
    obtain ⟨h8, h16, h32⟩ := calc_channels h
    rw [h8, h16, h32]
    exact ⟨.refl _, .refl _, .refl _⟩
  | nop | rev8 | rev16 | rev32 =>
    cases h
    exact ⟨.refl _, .refl _, .refl _⟩
  | mktbl8 =>
    cases h
    exact ⟨s.ch8.build_sameConfig, .refl _, .refl _⟩
  | mktbl16 =>
    cases h
    exact ⟨.refl _, s.ch16.build_sameConfig, .refl _⟩
  | mktbl32 =>
    cases h
    exact ⟨.refl _, .refl _, s.ch32.build_sameConfig⟩

theorem exec_commandFrame {i : Instr} {s t : State} (h : exec i s = .next t) : s.CommandFrame t := by
  obtain ⟨conf8, conf16, conf32⟩ := exec_sameConfig h
  exact {
    conf8, conf16, conf32
    werr := by rw [exec_next h]
    addr := by rw [exec_next h]
    len := by rw [exec_next h]
    opnd := by rw [exec_next h]
    platform := by rw [exec_next h]
    mem := fun a => by rw [exec_next h]
    agenda := by rw [exec_next h]
    answers := by rw [exec_next h] }

/-- Every command that answers a next state ends in the sense of 70_reset_and_hazards.md R204. -/
theorem exec_ends {i : Instr} {s t : State} (h : exec i s = .next t) : s.Ends t t.err where
  err := rfl
  busy := by
    rw [exec_next h]
    rfl
  frame := exec_commandFrame h

/-! ### MKTBL -/

/-- The state with the table and the binding of channel n built. -/
def State.build (s : State) : Width → State
  | .w8 => { s with ch8 := s.ch8.build }
  | .w16 => { s with ch16 := s.ch16.build }
  | .w32 => { s with ch32 := s.ch32.build }

/-- The three commands are one operation on the channel of their width (40_table_builder.md R104 to R106). -/
theorem exec_mktblOf (s : State) (n : Width) : exec (mktblOf n) s = .next ((s.build n).finish .ok) := by
  cases n <;> rfl

theorem Channel.build_builtFrom {w : Nat} (c : Channel w) : c.BuiltFrom c.build where
  table i := by simp
  tblpoly := rfl
  tdir := rfl
  tvalid := rfl

theorem State.build_built (s : State) (code : ErrCode) (n : Width) : s.Built ((s.build n).finish code) n :=
  match n with
  | .w8 => s.ch8.build_builtFrom
  | .w16 => s.ch16.build_builtFrom
  | .w32 => s.ch32.build_builtFrom

/-- Building channel n leaves the tables and bindings of the other channels (10_state.md R33). -/
theorem State.build_sameBinding_of_ne (s : State) (code : ErrCode) {n m : Width} (hm : m ≠ n) :
    s.SameBinding ((s.build n).finish code) m := by
  cases n <;> cases m
  case w8.w8 | w16.w16 | w32.w32 => exact absurd rfl hm
  all_goals exact .refl _

theorem State.build_result (s : State) (n : Width) : (s.build n).result = s.result := by cases n <;> rfl

theorem State.build_faultaddr (s : State) (n : Width) : (s.build n).faultaddr = s.faultaddr := by cases n <;> rfl

theorem State.build_bytesRead (s : State) (n : Width) : (s.build n).bytesRead = s.bytesRead := by cases n <;> rfl

/-- Settles O12: each command is `State.build` of its channel and the end of the step, and the frame is the one of
every command. -/
theorem tableBuildersComplete : Obligations.TableBuildersComplete :=
  ⟨⟨rfl, rfl, rfl⟩, ⟨rfl, rfl, rfl⟩, fun s n =>
    ⟨(s.build n).finish .ok, exec_mktblOf s n, s.build_built .ok n, fun _ => s.build_sameBinding_of_ne .ok,
      exec_ends (exec_mktblOf s n), s.build_result n, s.build_faultaddr n, s.build_bytesRead n⟩⟩

/-! ### One step of the builder -/

/-- What a step XORs into the shifted register when the bit it tests is b (40_table_builder.md R100). -/
def builderFeedback {w : Nat} (poly : BitVec w) (b : Bool) : BitVec w := if b then poly else 0

@[simp] theorem builderFeedback_false {w : Nat} (poly : BitVec w) : builderFeedback poly false = 0#w := rfl

@[simp] theorem builderFeedback_true {w : Nat} (poly : BitVec w) : builderFeedback poly true = poly := rfl

@[simp] theorem builderFeedback_zero {w : Nat} (b : Bool) : builderFeedback (0#w) b = 0#w := by
  cases b <;> rfl

theorem builderFeedback_xor {w : Nat} (poly : BitVec w) (a b : Bool) :
    builderFeedback poly (a ^^ b) = builderFeedback poly a ^^^ builderFeedback poly b := by
  cases a <;> cases b <;> simp

theorem builderStep_left {w : Nat} (poly r : BitVec w) :
    builderStep poly .left r = r <<< 1 ^^^ builderFeedback poly (r.getLsbD (w - 1)) := by
  cases h : r.getLsbD (w - 1) <;> simp [builderStep, h]

theorem builderStep_right {w : Nat} (poly r : BitVec w) :
    builderStep poly .right r = r >>> 1 ^^^ builderFeedback poly (r.getLsbD 0) := by
  cases h : r.getLsbD 0 <;> simp [builderStep, h]

/-! ### The builder in unsigned arithmetic -/

theorem eight_le_bits (n : Width) : 8 ≤ n.bits := by cases n <;> decide

/-- 40_table_builder.md R101: nothing is lost by the shift. -/
theorem toNat_builderSeed_left {w : Nat} (hw : 8 ≤ w) (i : Byte) :
    (builderSeed (w := w) .left i).toNat = i.toNat * 2 ^ (w - 8) := by
  have hlt : i.toNat * 2 ^ (w - 8) < 2 ^ w :=
    calc i.toNat * 2 ^ (w - 8) < 2 ^ 8 * 2 ^ (w - 8) := Nat.mul_lt_mul_of_pos_right i.isLt (Nat.two_pow_pos _)
      _ = 2 ^ w := by rw [← Nat.pow_add, Nat.add_sub_cancel' hw]
  rw [builderSeed, BitVec.toNat_shiftLeft, BitVec.toNat_setWidth_of_le hw, Nat.shiftLeft_eq, Nat.mod_eq_of_lt hlt]

/-- 40_table_builder.md R102. -/
theorem toNat_builderSeed_right {w : Nat} (hw : 8 ≤ w) (i : Byte) :
    (builderSeed (w := w) .right i).toNat = i.toNat :=
  BitVec.toNat_setWidth_of_le hw

/-- A Left step doubles modulo 2^w: the doubled register passes 2^w exactly when the top bit was 1. -/
theorem toNat_builderStep_left {w : Nat} (hw : 0 < w) (poly r : BitVec w) :
    (builderStep poly .left r).toNat =
      if r.toNat < 2 ^ (w - 1) then 2 * r.toNat else (2 * r.toNat - 2 ^ w) ^^^ poly.toNat := by
  have hpow : 2 ^ w = 2 * 2 ^ (w - 1) := by rw [← Nat.pow_succ', Nat.succ_eq_add_one, Nat.sub_add_cancel hw]
  have hr := r.isLt
  rw [builderStep_left, ← BitVec.msb_eq_getLsbD_last, BitVec.msb_eq_decide, BitVec.toNat_xor,
    BitVec.toNat_shiftLeft, Nat.shiftLeft_eq, Nat.pow_one, Nat.mul_comm]
  split_ifs with htop
  · have hmod : 2 * r.toNat % 2 ^ w = 2 * r.toNat := Nat.mod_eq_of_lt (by omega)
    simp [hmod, Nat.not_le.mpr htop]
  · have hmod : 2 * r.toNat % 2 ^ w = 2 * r.toNat - 2 ^ w := by
      rw [Nat.mod_eq_sub_mod (by omega), Nat.mod_eq_of_lt (by omega)]
    simp [hmod, Nat.not_lt.mp htop]

/-- A Right step halves: the bit dropped is the remainder. -/
theorem toNat_builderStep_right {w : Nat} (poly r : BitVec w) :
    (builderStep poly .right r).toNat =
      if r.toNat % 2 = 0 then r.toNat / 2 else (r.toNat / 2) ^^^ poly.toNat := by
  rw [builderStep_right, BitVec.toNat_xor, BitVec.toNat_ushiftRight, Nat.shiftRight_eq_div_pow, Nat.pow_one,
    ← BitVec.testBit_toNat, Nat.testBit_zero]
  split_ifs with hlow
  · simp [hlow]
  · simp [Nat.mod_two_ne_zero.mp hlow]

theorem builderSteps_eq_iterate {w : Nat} (poly : BitVec w) (dir : Dir) (k : Nat) (r : BitVec w) :
    builderSteps poly dir k r = (builderStep poly dir)^[k] r := by
  induction k generalizing r with
  | zero => rfl
  | succ k ih => rw [builderSteps, ih, Function.iterate_succ_apply]

/-- Settles O13: the seeds and the two steps as numbers, and an entry as its eight steps. -/
theorem builderArithmetic : Obligations.BuilderArithmetic := by
  intro n poly r i
  have hw : 8 ≤ n.bits := eight_le_bits n
  refine ⟨toNat_builderSeed_left hw i, toNat_builderSeed_right hw i, toNat_builderStep_left (by omega) poly r,
    toNat_builderStep_right poly r, fun d => ?_⟩
  rw [tableEntry_buildTable, builderEntry, builderSteps_eq_iterate]

/-! ### Linearity over GF(2) -/

theorem builderSeed_xor {w : Nat} (dir : Dir) (i j : Byte) :
    builderSeed (w := w) dir (i ^^^ j) = builderSeed dir i ^^^ builderSeed dir j := by
  cases dir with
  | left => simp only [builderSeed, BitVec.setWidth_xor, BitVec.shiftLeft_xor_distrib]
  | right => simp only [builderSeed, BitVec.setWidth_xor]

/-- The shift, the bit tested and the feedback are each linear. -/
theorem builderStep_xor {w : Nat} (poly : BitVec w) (dir : Dir) (r r' : BitVec w) :
    builderStep poly dir (r ^^^ r') = builderStep poly dir r ^^^ builderStep poly dir r' := by
  cases dir with
  | left =>
    simp only [builderStep_left, BitVec.shiftLeft_xor_distrib, BitVec.getLsbD_xor, builderFeedback_xor]
    ac_rfl
  | right =>
    simp only [builderStep_right, BitVec.ushiftRight_xor_distrib, BitVec.getLsbD_xor, builderFeedback_xor]
    ac_rfl

theorem builderSteps_xor {w : Nat} (poly : BitVec w) (dir : Dir) (k : Nat) (r r' : BitVec w) :
    builderSteps poly dir k (r ^^^ r') = builderSteps poly dir k r ^^^ builderSteps poly dir k r' := by
  induction k generalizing r r' with
  | zero => rfl
  | succ k ih => simp only [builderSteps, builderStep_xor, ih]

/-- 40_table_builder.md R107 (c). -/
theorem builderEntry_xor {w : Nat} (poly : BitVec w) (dir : Dir) (i j : Byte) :
    builderEntry poly dir (i ^^^ j) = builderEntry poly dir i ^^^ builderEntry poly dir j := by
  rw [builderEntry, builderSeed_xor, builderSteps_xor]
  rfl

/-- 40_table_builder.md R107 (a): a linear function is 0 at 0. -/
theorem builderEntry_zero {w : Nat} (poly : BitVec w) (dir : Dir) : builderEntry poly dir 0 = 0 :=
  calc builderEntry poly dir 0 = builderEntry poly dir (0 ^^^ 0) := rfl
    _ = builderEntry poly dir 0 ^^^ builderEntry poly dir 0 := builderEntry_xor poly dir 0 0
    _ = 0 := BitVec.xor_self

/-! ### The entry that is the polynomial -/

open BitVec (twoPow)

theorem twoPow_shiftLeft_one (w k : Nat) : twoPow w k <<< 1 = twoPow w (k + 1) := by
  simp only [BitVec.twoPow_eq, BitVec.shiftLeft_add]

theorem twoPow_zero_ushiftRight_one (w : Nat) : twoPow w 0 >>> 1 = 0#w := by
  ext i hi
  simp [Nat.add_comm 1 i]

theorem twoPow_succ_ushiftRight_one {w k : Nat} (h : k + 1 < w) : twoPow w (k + 1) >>> 1 = twoPow w k := by
  ext i hi
  simp [h, Nat.add_comm 1 i, eq_comm]

/-- A single bit moves up until it stands at the top, and the step after that leaves the polynomial. -/
theorem builderSteps_left_twoPow {w : Nat} (poly : BitVec w) (j k : Nat) (h : k + j + 1 = w) :
    builderSteps poly .left (j + 1) (twoPow w k) = poly := by
  induction j generalizing k with
  | zero =>
    have hbit : (twoPow w k).getLsbD (w - 1) = true := by simp [← h]
    have hout : twoPow w k <<< 1 = 0#w := by
      rw [twoPow_shiftLeft_one, BitVec.twoPow_eq, BitVec.shiftLeft_eq_zero (by omega)]
    simp [builderSteps, builderStep_left, hbit, hout]
  | succ j ih =>
    have hbit : (twoPow w k).getLsbD (w - 1) = false := by simp [show k ≠ w - 1 by omega]
    have hstep : builderStep poly .left (twoPow w k) = twoPow w (k + 1) := by
      simp [builderStep_left, hbit, twoPow_shiftLeft_one]
    rw [builderSteps, hstep, ih (k + 1) (by omega)]

/-- A single bit moves down until it stands at bit 0, and the step after that leaves the polynomial. -/
theorem builderSteps_right_twoPow {w : Nat} (poly : BitVec w) (k : Nat) (h : k < w) :
    builderSteps poly .right (k + 1) (twoPow w k) = poly := by
  induction k with
  | zero =>
    have hbit : (twoPow w 0).getLsbD 0 = true := by simp [h]
    simp [builderSteps, builderStep_right, hbit, twoPow_zero_ushiftRight_one]
  | succ k ih =>
    have hbit : (twoPow w (k + 1)).getLsbD 0 = false := by simp
    have hstep : builderStep poly .right (twoPow w (k + 1)) = twoPow w k := by
      simp [builderStep_right, hbit, twoPow_succ_ushiftRight_one h]
    rw [builderSteps, hstep, ih (by omega)]

/-- 40_table_builder.md R107 (b), Left: the seed is bit w - 8, which 8 steps carry out of the register. -/
theorem builderEntry_left_one {w : Nat} (hw : 8 ≤ w) (poly : BitVec w) : builderEntry poly .left 0x01 = poly := by
  have hseed : builderSeed .left 0x01 = twoPow w (w - 8) := by
    apply BitVec.eq_of_toNat_eq
    rw [toNat_builderSeed_left hw, BitVec.toNat_twoPow_of_lt (by omega)]
    simp
  rw [builderEntry, hseed, builderSteps_left_twoPow poly 7 (w - 8) (by omega)]

/-- 40_table_builder.md R107 (b), Right: the seed is bit 7, which 8 steps carry out of the register. -/
theorem builderEntry_right_0x80 {w : Nat} (hw : 8 ≤ w) (poly : BitVec w) : builderEntry poly .right 0x80 = poly := by
  have hseed : builderSeed .right 0x80 = twoPow w 7 := by
    apply BitVec.eq_of_toNat_eq
    rw [toNat_builderSeed_right hw, BitVec.toNat_twoPow_of_lt (by omega)]
    rfl
  rw [builderEntry, hseed, builderSteps_right_twoPow poly 7 (by omega)]

/-! ### The zero polynomial -/

theorem builderSteps_left_zero {w : Nat} (k : Nat) (r : BitVec w) : builderSteps (0#w) .left k r = r <<< k := by
  induction k generalizing r with
  | zero => simp [builderSteps]
  | succ k ih => simp [builderSteps, builderStep_left, ih, Nat.add_comm k 1, BitVec.shiftLeft_add]

theorem builderSteps_right_zero {w : Nat} (k : Nat) (r : BitVec w) : builderSteps (0#w) .right k r = r >>> k := by
  induction k generalizing r with
  | zero => simp [builderSteps]
  | succ k ih => simp [builderSteps, builderStep_right, ih, Nat.add_comm k 1, BitVec.shiftRight_add]

/-- With polynomial 0 nothing is fed back, and 8 steps shift the whole byte of the seed out. -/
theorem builderEntry_zero_poly {w : Nat} (hw : 8 ≤ w) (dir : Dir) (i : Byte) :
    builderEntry (0#w) dir i = 0#w := by
  cases dir with
  | left =>
    rw [builderEntry, builderSteps_left_zero, builderSeed, ← BitVec.shiftLeft_add, Nat.sub_add_cancel hw]
    exact BitVec.shiftLeft_eq_zero (le_refl w)
  | right =>
    rw [builderEntry, builderSteps_right_zero]
    apply BitVec.eq_of_toNat_eq
    rw [BitVec.toNat_ushiftRight, toNat_builderSeed_right hw, Nat.shiftRight_eq_div_pow, Nat.div_eq_of_lt i.isLt]
    rfl

/-- Settles O14: linearity of the step carried through the eight steps, the one bit that reaches the tested end in
the last of them, and the zero polynomial, which feeds nothing back. -/
theorem tableEntriesAreLinear : Obligations.TableEntriesAreLinear := by
  intro n poly d
  have hw : 8 ≤ n.bits := eight_le_bits n
  simp only [tableEntry_buildTable]
  exact ⟨builderEntry_zero poly d, builderEntry_left_one hw poly, builderEntry_right_0x80 hw poly,
    builderEntry_xor poly d, builderEntry_zero_poly hw d⟩

end Sys2Proof.Machine
end

section
/-! PROOFS. 41_stream_reducer.md: the Left step in unsigned arithmetic (R123), and CALC over the empty buffer
(R128). -/

namespace Sys2Proof.Machine

/-! ### The Left step -/

theorem topByte_eq_ofNat {w : Nat} (c : BitVec w) : topByte c = BitVec.ofNat 8 (c.toNat / 2 ^ (w - 8)) := by
  rw [topByte, BitVec.extractLsb', Nat.shiftRight_eq_div_pow]

/-- The top byte of an 8-bit register is the register. -/
@[simp] theorem topByte_byte (c : BitVec 8) : topByte c = c :=
  BitVec.extractLsb'_eq_self

/-- 41_stream_reducer.md R123 for every width; at W = 16 and W = 32 the index is c[15:8] and c[31:24]. -/
theorem toNat_stepLeft {w : Nat} (t : Table w) (c : BitVec w) (b : Byte) :
    (stepLeft t c b).toNat =
      (c.toNat * 256 % 2 ^ w) ^^^ (tableEntry t (BitVec.ofNat 8 (c.toNat / 2 ^ (w - 8)) ^^^ b)).toNat := by
  rw [stepLeft, BitVec.toNat_xor, BitVec.toNat_shiftLeft, Nat.shiftLeft_eq, topByte_eq_ofNat]

/-- At width 8 the shift leaves nothing of the register, so the wide form is the table entry alone. -/
theorem stepLeft_byte (t : Table 8) (c b : BitVec 8) : stepLeft t c b = tableEntry t (c ^^^ b) := by
  have hshift : c <<< 8 = 0#8 := BitVec.shiftLeft_eq_zero (le_refl 8)
  rw [stepLeft, hshift, topByte_byte, BitVec.zero_xor]

/-- The width-8 Left form, the same for both values of `RIGHT8_FOLD`. -/
theorem step8_left (f : Right8Fold) (t : Table 8) (c b : BitVec 8) :
    step8 f t .left c b = tableEntry t (c ^^^ b) := rfl

/-- Settles O15: the width-8 form is a table entry and the wide form drops the register there; widths 16 and 32 are
the form of every width. -/
theorem leftStepForms : Obligations.LeftStepForms :=
  ⟨fun f t c b => ⟨step8_left f t c b, (step8_left f t c b).trans (stepLeft_byte t c b).symm⟩,
    toNat_stepLeft, toNat_stepLeft⟩

/-! ### CALC, by the check that decides it -/

section Calc
variable {w : Nat} {s : State} {ch : Channel w} (stp : BitVec w → Byte → BitVec w)

/-- 60_exceptions.md R173: the first check of 41_stream_reducer.md R122. -/
theorem calc_of_no_table (hv : ch.tvalid = false) : s.calc ch stp = .next (s.raise .noTable) := by
  simp [State.calc, hv]

/-- Both checks passed and every byte read. -/
theorem calc_of_done {c : BitVec w} {log : List Word} (hv : ch.tvalid = true) (hr : s.outOfRange = false)
    (hf : s.foldBytes ch.cfg.refin stp s.len.toNat 0 ch.init s.bytesRead = .done c log) :
    s.calc ch stp = .next (({ s with result := zext32 (ch.finalValue c), bytesRead := log }).finish .ok) := by
  simp [State.calc, hv, hr, hf]

end Calc

/-! ### The empty buffer -/

/-- No ADDR is out of range with LEN = 0. -/
theorem outOfRange_of_len_zero {s : State} (hlen : s.len = 0) : s.outOfRange = false := by
  have haddr : s.addr.toNat < addressSpace := s.addr.isLt
  simp [State.outOfRange, hlen, haddr.le]

/-- The fold of no byte is INIT. -/
theorem foldBytes_of_len_zero {w : Nat} {s : State} (hlen : s.len = 0) (refin : Bool)
    (stp : BitVec w → Byte → BitVec w) (c : BitVec w) (log : List Word) :
    s.foldBytes refin stp s.len.toNat 0 c log = .done c log := by
  rw [hlen]
  rfl

/-- 41_stream_reducer.md R128 for a channel of any width and any step. -/
theorem calc_of_len_zero {w : Nat} {s : State} (hlen : s.len = 0) (ch : Channel w)
    (stp : BitVec w → Byte → BitVec w) :
    ∃ t, s.calc ch stp = .next t ∧ t.bytesRead = s.bytesRead ∧ (ch.tvalid = false → t.err = .noTable) ∧
      (ch.tvalid = true → t.err = .ok ∧ t.result = zext32 (ch.finalValue ch.init)) := by
  cases hv : ch.tvalid with
  | false => exact ⟨_, calc_of_no_table stp hv, rfl, fun _ => rfl, nofun⟩
  | true =>
    have hdone := foldBytes_of_len_zero hlen ch.cfg.refin stp ch.init s.bytesRead
    exact ⟨_, calc_of_done stp hv (outOfRange_of_len_zero hlen) hdone, rfl, nofun, fun _ => ⟨rfl, rfl⟩⟩

/-- Settles O19: CALC8, CALC16 and CALC32 are one operation on the channel of their width, and over no byte it ends
at the first check or with the final value of INIT. -/
theorem emptyBufferChecksum : Obligations.EmptyBufferChecksum := fun s n hlen =>
  match n with
  | .w8 => calc_of_len_zero hlen s.ch8 (step8 s.platform.right8Fold s.ch8.table s.ch8.tdir)
  | .w16 => calc_of_len_zero hlen s.ch16 (stepWide s.ch16.table s.ch16.tdir)
  | .w32 => calc_of_len_zero hlen s.ch32 (stepWide s.ch32.table s.ch32.tdir)

end Sys2Proof.Machine
end

section
/-! PROOFS. 42_bit_reversal.md: the properties of `reverse_N` (R151), and the commands REV8, REV16 and REV32 (R152 to
R154). -/

namespace Sys2Proof.Machine

/-! ### Bit reversal, for every width -/

/-- `getLsbD_reverseBits` in the spelling in which `ext` and `simp` compare two words bit by bit. -/
@[simp] theorem getElem_reverseBits {w : Nat} (v : BitVec w) (i : Nat) (hi : i < w) :
    (reverseBits v)[i] = v[w - 1 - i] := by
  simp only [← BitVec.getLsbD_eq_getElem, getLsbD_reverseBits v i hi]

/-- 42_bit_reversal.md R151: the place of a bit, counted from the other end twice, is its own place. -/
@[simp] theorem reverseBits_reverseBits {w : Nat} (v : BitVec w) : reverseBits (reverseBits v) = v := by
  ext i hi
  have hplace : w - 1 - (w - 1 - i) = i := by omega
  simp [hplace]

@[simp] theorem reverseBits_zero (w : Nat) : reverseBits (0#w) = 0#w := by
  ext i hi
  simp

@[simp] theorem reverseBits_allOnes (w : Nat) : reverseBits (BitVec.allOnes w) = BitVec.allOnes w := by
  ext i hi
  simp

/-- 42_bit_reversal.md R151: XOR acts on each bit by itself, so it does not matter where the bit stands. -/
theorem reverseBits_xor {w : Nat} (a b : BitVec w) :
    reverseBits (a ^^^ b) = reverseBits a ^^^ reverseBits b := by
  ext i hi
  simp

/-- Settles O11: the four properties hold at every width. -/
theorem reversalProperties : Obligations.ReversalProperties := fun n =>
  ⟨reverseBits_reverseBits, reverseBits_zero n.bits, reverseBits_allOnes n.bits, reverseBits_xor⟩

/-! ### The bits of RESULT -/

theorem bits_le_32 (n : Width) : n.bits ≤ 32 := by cases n <;> decide

/-- Bit n-1-i of RESULT is bit i of OPND, for every operand width that fits in a register. -/
theorem State.reverseOpnd_result_getLsbD (s : State) {n i : Nat} (hn : n ≤ 32) (hi : i < n) :
    (s.reverseOpnd n).result.getLsbD (n - 1 - i) = s.opnd.getLsbD i := by
  have hj : n - 1 - i < n := by omega
  have hplace : n - 1 - (n - 1 - i) = i := by omega
  calc (s.reverseOpnd n).result.getLsbD (n - 1 - i)
      = (reverseBits (s.opndLow n)).getLsbD (n - 1 - i) := by
        simp [zext32, show n - 1 - i < 32 by omega]
    _ = (s.opndLow n).getLsbD i := by rw [getLsbD_reverseBits _ _ hj, hplace]
    _ = s.opnd.getLsbD i := by simp [State.opndLow, hi]

/-- The reversed operand is zero-extended. -/
theorem State.reverseOpnd_result_getLsbD_of_ge (s : State) {n i : Nat} (hi : n ≤ i) :
    (s.reverseOpnd n).result.getLsbD i = false := by
  simp [zext32, BitVec.getLsbD_of_ge _ i hi]

/-! ### The commands -/

theorem Channel.SameBinding.of_eq {w : Nat} {c c' : Channel w} (h : c' = c) : c.SameBinding c' := h ▸ .refl c

/-- A state with the same channels has the same tables and bindings. -/
theorem State.sameBindings_of_channels {s t : State} (h8 : t.ch8 = s.ch8) (h16 : t.ch16 = s.ch16)
    (h32 : t.ch32 = s.ch32) : s.SameBindings t
  | .w8 => Channel.SameBinding.of_eq h8
  | .w16 => Channel.SameBinding.of_eq h16
  | .w32 => Channel.SameBinding.of_eq h32

/-- The three commands are one operation on the low bits of OPND (42_bit_reversal.md R152 to R154). -/
theorem exec_revCommand (s : State) (n : Width) : exec (revCommand n) s = .next (s.reverseOpnd n.bits) := by
  cases n <;> rfl

/-- Settles O10: each command is `State.reverseOpnd` at its width, whose RESULT is known bit by bit, and the frame is
the one of every command. -/
theorem reversalCommandsComplete : Obligations.ReversalCommandsComplete :=
  ⟨⟨rfl, rfl, rfl⟩, ⟨rfl, rfl, rfl⟩, fun s n =>
    ⟨s.reverseOpnd n.bits, exec_revCommand s n, fun _ => s.reverseOpnd_result_getLsbD (bits_le_32 n),
      fun _ => s.reverseOpnd_result_getLsbD_of_ge, exec_ends (exec_revCommand s n),
      State.sameBindings_of_channels rfl rfl rfl, rfl, rfl⟩⟩

end Sys2Proof.Machine
end

section
/-! PROOFS. 43_nop.md: the write of a command to CMD while idle, and NOP (R165). -/

namespace Sys2Proof.Machine

/-- While idle a write at a register's offset is that register's write. -/
theorem hostStore_idle_of_regAt_some {s : State} {off : Nat} {r : Reg} (v : Word) (h : regAt off = some r)
    (hb : s.busy = false) : s.hostStore off v = s.writeReg r v := by
  rcases hostStore_cases s off v with ⟨hbusy, -, -⟩ | ⟨hnone, -, -⟩ | ⟨r', hr', -, hs⟩
  · simp [hb] at hbusy
  · simp [h] at hnone
  · obtain rfl : r' = r := Option.some.inj (hr'.symm.trans h)
    exact hs

/-- 10_state.md R25: while idle a write of CMD latches the word. -/
theorem hostStore_cmd_of_idle {s : State} (v : Word) (hb : s.busy = false) :
    s.hostStore 0x000 v = s.latch v :=
  hostStore_idle_of_regAt_some (r := .cmd) v rfl hb

theorem State.latch_busy (s : State) (v : Word) : (s.latch v).busy = true := rfl

theorem exec_nop (s : State) : exec .nop s = .next (s.finish .ok) := rfl

/-- Settles O9: the write of CMD latches the word of NOP, and NOP is the bare end of an engine step, which leaves the
frame of every command, the channels, RESULT, FAULTADDR and the record of reads. -/
theorem nopCompletes : Obligations.NopCompletes :=
  ⟨rfl, fun s hb => by rw [hostStore_cmd_of_idle _ hb, State.latch_busy], fun s =>
    ⟨s.finish .ok, exec_nop s, exec_ends (exec_nop s), State.sameBindings_of_channels rfl rfl rfl,
      s.finish_result .ok, s.finish_faultaddr .ok, s.finish_bytesRead .ok⟩⟩

end Sys2Proof.Machine
end

section
/-! PROOFS. 60_exceptions.md: what raising an error leaves unchanged (R172), and what raises ILLEGAL_CMD (R171),
NO_TABLE (R173), RANGE (R175) and BUS_FAULT (R174). -/

namespace Sys2Proof.Machine

/-! ### Raising an error -/

/-- 60_exceptions.md R172, with what ends every engine step (70_reset_and_hazards.md R204). -/
theorem State.raise_ends (s : State) (e : CmdError) : s.Ends (s.raise e) e.code where
  err := rfl
  busy := rfl
  frame := {
    conf8 := .refl s.ch8
    conf16 := .refl s.ch16
    conf32 := .refl s.ch32
    werr := rfl
    addr := rfl
    len := rfl
    opnd := rfl
    platform := rfl
    mem := fun _ => rfl
    agenda := rfl
    answers := rfl }

/-- An error writes no channel. -/
theorem State.raise_sameBindings (s : State) (e : CmdError) : s.SameBindings (s.raise e) :=
  State.sameBindings_of_channels rfl rfl rfl

/-! ### An illegal word -/

/-- 30_encoding.md R84: a word is matched with the ten words of the opcode map alone. -/
theorem fetched_of_illegal {s : State} {w : Word} (hp : s.pending = some w) (hw : ∀ i, encode i ≠ w) :
    s.fetched = .illegal := by
  cases hd : decode w with
  | ok i => exact absurd (eq_encode_of_decode hd).symm (hw i)
  | error _ => simp [State.fetched, hp, hd]

/-- 60_exceptions.md R171 as the step of the machine. -/
theorem step_of_illegal {s : State} {w : Word} (he : s.nextEvent = .engine) (hp : s.pending = some w)
    (hw : ∀ i, encode i ≠ w) : step s = .next (s.popEvent.raise .illegalCmd) := by
  have hfetched : s.popEvent.fetched = .illegal := fetched_of_illegal (s := s.popEvent) hp hw
  simp only [step, he, State.move, State.engineTurn, hfetched, State.illegalTurn]

/-- Settles O6: no command decodes from the word, so the engine's turn raises ILLEGAL_CMD, which writes no register
but STATUS. -/
theorem illegalWordEndsWithIllegalCmd : Obligations.IllegalWordEndsWithIllegalCmd := fun s _ he hp hw =>
  ⟨s.popEvent.raise .illegalCmd, step_of_illegal he hp hw, s.popEvent.raise_ends .illegalCmd,
    s.popEvent.raise_sameBindings .illegalCmd, rfl, rfl, rfl⟩

/-! ### The CALC of a width -/

/-- The three commands are one operation on the channel of their width (41_stream_reducer.md R130 to R132). Which
step function it runs is not said: no check and no read depends on it. -/
theorem exec_calcCommand_eq_calc (s : State) (n : Width) :
    ∃ (w : Nat) (ch : Channel w) (stp : BitVec w → Byte → BitVec w),
      ch.tvalid = s.tvalid n ∧ exec (calcCommand n) s = s.calc ch stp := by
  cases n <;> exact ⟨_, _, _, rfl, rfl⟩

/-- The range check compares exact integers (41_stream_reducer.md R122). -/
theorem outOfRange_eq_true_iff {s : State} : s.outOfRange = true ↔ s.addr.toNat + s.len.toNat > 2 ^ 32 :=
  decide_eq_true_iff

theorem outOfRange_eq_false_iff {s : State} : s.outOfRange = false ↔ s.addr.toNat + s.len.toNat ≤ 2 ^ 32 :=
  decide_eq_false_iff_not.trans Nat.not_lt

section Calc
variable {w : Nat} {s : State} {ch : Channel w} (stp : BitVec w → Byte → BitVec w)

/-- 60_exceptions.md R175: the second check of 41_stream_reducer.md R122. -/
theorem calc_of_outOfRange (hv : ch.tvalid = true) (hr : s.outOfRange = true) :
    s.calc ch stp = .next (s.raise .range) := by
  simp [State.calc, hv, hr]

/-- 60_exceptions.md R174: both checks passed and a read that faulted. -/
theorem calc_of_busFault {a : Word} {log : List Word} (hv : ch.tvalid = true) (hr : s.outOfRange = false)
    (hf : s.foldBytes ch.cfg.refin stp s.len.toNat 0 ch.init s.bytesRead = .busFault a log) :
    s.calc ch stp = .next (({ s with bytesRead := log }).raise (.busFault a)) := by
  simp [State.calc, hv, hr, hf]

/-- The fold from ADDR on reads the bytes the buffer holds and stops at the fault after them. -/
theorem foldBytes_of_bufferHolds_of_fault {bs : List Byte} (hlen : bs.length < s.len.toNat) (hbs : s.BufferHolds bs)
    (hf : s.memRead (BitVec.ofNat 32 (s.addr.toNat + bs.length)) = .fault) (refin : Bool) (c : BitVec w)
    (log : List Word) :
    s.foldBytes refin stp s.len.toNat 0 c log =
      .busFault (BitVec.ofNat 32 (s.addr.toNat + bs.length)) (s.addressesRead bs.length ++ log) := by
  have hfold := foldBytes_fault s refin stp bs s.len.toNat 0 c log
  simp only [Nat.zero_add] at hfold
  exact hfold hbs hf hlen

end Calc

/-! ### The errors of CALC -/

/-- Settles O20: the check of TVALID comes first, and NO_TABLE writes no register but STATUS. -/
theorem calcWithoutTableEndsWithNoTable : Obligations.CalcWithoutTableEndsWithNoTable := by
  intro s n hv
  obtain ⟨w, ch, stp, htvalid, hcalc⟩ := exec_calcCommand_eq_calc s n
  have hexec : exec (calcCommand n) s = .next (s.raise .noTable) :=
    hcalc.trans (calc_of_no_table stp (htvalid.trans hv))
  exact ⟨_, hexec, s.raise_ends .noTable, s.raise_sameBindings .noTable, rfl, rfl, rfl⟩

/-- Settles O21: with a table the range check comes next, and RANGE writes no register but STATUS. -/
theorem calcPastTheTopEndsWithRange : Obligations.CalcPastTheTopEndsWithRange := by
  intro s n hv hrange
  obtain ⟨w, ch, stp, htvalid, hcalc⟩ := exec_calcCommand_eq_calc s n
  have hexec : exec (calcCommand n) s = .next (s.raise .range) :=
    hcalc.trans (calc_of_outOfRange stp (htvalid.trans hv) (outOfRange_eq_true_iff.mpr hrange))
  exact ⟨_, hexec, s.raise_ends .range, s.raise_sameBindings .range, rfl, rfl, rfl⟩

/-- Settles O22: past both checks the fold reads the bytes the buffer holds and stops at the fault, and BUS_FAULT writes
FAULTADDR and no other register but STATUS. -/
theorem calcFaultingReadEndsWithBusFault : Obligations.CalcFaultingReadEndsWithBusFault := by
  intro s n bs hv hrange hlen hbs hfault
  obtain ⟨w, ch, stp, htvalid, hcalc⟩ := exec_calcCommand_eq_calc s n
  have hfold := foldBytes_of_bufferHolds_of_fault stp hlen hbs hfault ch.cfg.refin ch.init s.bytesRead
  have hexec := hcalc.trans (calc_of_busFault stp (htvalid.trans hv) (outOfRange_eq_false_iff.mpr hrange) hfold)
  exact ⟨_, hexec, exec_ends hexec, State.sameBindings_of_channels rfl rfl rfl, rfl, rfl, rfl⟩

end Sys2Proof.Machine
end

section
/-! PROOFS. 70_reset_and_hazards.md: host writes while a command is pending (R212). -/

namespace Sys2Proof.Machine

/-- 10_state.md R26: a write of STATUS changes WERR alone. -/
theorem State.writeReg_status (s : State) (v : Word) :
    s.writeReg .status v = { s with werr := s.werr && !v.getLsbD 8 } := by
  simp only [State.writeReg]
  cases v.getLsbD 8 <;> simp

/-- A write of STATUS is accepted whatever BUSY is. -/
theorem hostStore_of_regAt_status (s : State) {off : Nat} (v : Word) (h : regAt off = some .status) :
    s.hostStore off v = s.writeReg .status v := by
  rcases hostStore_cases s off v with ⟨-, hne, -⟩ | ⟨hnone, -, -⟩ | ⟨r, hr, -, hs⟩
  · exact absurd h hne
  · simp [h] at hnone
  · obtain rfl : r = .status := Option.some.inj (hr.symm.trans h)
    exact hs

/-- At a multiple of 4, STATUS is found at its own offset alone (10_state.md R23). -/
theorem regAt_ne_status_of_ne_regOffset {off : Nat} (ho : off % 4 = 0) (hne : off ≠ regOffset .status) :
    regAt off ≠ some .status :=
  fun hat => hne (regOffset_of_regAt ho hat).symm

/-- Settles O35: at any other multiple of 4 the register map does not find STATUS, so the write is refused; at the
offset of STATUS it does, so the write is that register's own. -/
theorem busyWritesAreRefused : Obligations.BusyWritesAreRefused := fun s _ v hb ho _ hne =>
  ⟨hostStore_busy_of_regAt_ne_status v (regAt_ne_status_of_ne_regOffset ho hne) hb,
    (hostStore_of_regAt_status s v rfl).trans (s.writeReg_status v)⟩

end Sys2Proof.Machine
end

section
/-! PROOFS. 00_scope.md R4: the channel of a width, so that what holds of all three channels is said once, and the
commands by their class. -/

namespace Sys2Proof.Machine

/-- STATUS.BUSY is the CMD latch holding a word (10_state.md R41 a). -/
theorem busy_eq_false_iff {s : State} : s.busy = false ↔ s.pending = none :=
  Option.isSome_eq_false_iff.trans Option.isNone_iff_eq_none

/-! ### The channel of a width -/

/-- The channel of width n (00_scope.md R4). -/
def State.channel (s : State) : (n : Width) → Channel n.bits
  | .w8 => s.ch8
  | .w16 => s.ch16
  | .w32 => s.ch32

/-- The step CALC of channel n folds a byte with (41_stream_reducer.md R130 to R132). -/
def State.calcStep (s : State) : (n : Width) → BitVec n.bits → Byte → BitVec n.bits
  | .w8 => step8 s.platform.right8Fold s.ch8.table s.ch8.tdir
  | .w16 => stepWide s.ch16.table s.ch16.tdir
  | .w32 => stepWide s.ch32.table s.ch32.tdir

theorem tvalid_eq_channel (s : State) (n : Width) : s.tvalid n = (s.channel n).tvalid := by cases n <;> rfl

theorem regValue_chan (s : State) (n : Width) (c : ChanReg) :
    s.regValue (.chan n c) = (s.channel n).regValue c := by cases n <;> rfl

theorem sameBinding_iff_channel {s t : State} {n : Width} :
    s.SameBinding t n ↔ (s.channel n).SameBinding (t.channel n) := by cases n <;> rfl

theorem sameFold_iff_channel {s t : State} {n : Width} :
    s.SameFold t n ↔ (s.channel n).SameFold (t.channel n) := by cases n <;> rfl

theorem stored_chan_iff {s : State} {n : Width} {c : ChanReg} {v : Word} :
    s.Stored (.chan n c) v ↔ (s.channel n).Stored c v := by cases n <;> rfl

theorem readsAs_chan_iff {s : State} {n : Width} {c : ChanReg} {x : Word} :
    s.ReadsAs (.chan n c) x ↔ (s.channel n).ReadsAs c x := by cases n <;> rfl

theorem checksumWord_eq_foldWord (s : State) (n : Width) (bs : List Byte) :
    s.checksumWord n bs = foldWord (s.channel n) (s.calcStep n) bs := by cases n <;> rfl

theorem channel_congr {s t : State} (h8 : t.ch8 = s.ch8) (h16 : t.ch16 = s.ch16) (h32 : t.ch32 = s.ch32)
    (n : Width) : t.channel n = s.channel n :=
  match n with
  | .w8 => h8
  | .w16 => h16
  | .w32 => h32

theorem reset_channel (n : Width) : State.reset.channel n = Channel.reset n.bits := by cases n <;> rfl

theorem State.build_channel (s : State) (n : Width) : (s.build n).channel n = (s.channel n).build := by
  cases n <;> rfl

theorem State.build_channel_of_ne (s : State) {n m : Width} (hm : m ≠ n) :
    (s.build n).channel m = s.channel m := by
  cases n <;> cases m
  case w8.w8 | w16.w16 | w32.w32 => exact absurd rfl hm
  all_goals rfl

theorem State.writeReg_channel (s : State) (n : Width) (c : ChanReg) (v : Word) :
    (s.writeReg (.chan n c) v).channel n = (s.channel n).store c v := by cases n <;> rfl

/-- A write of a register of channel m leaves every other channel. -/
theorem State.writeReg_channel_of_ne (s : State) {n m : Width} (hm : m ≠ n) (c : ChanReg) (v : Word) :
    (s.writeReg (.chan m c) v).channel n = s.channel n := by
  cases n <;> cases m
  case w8.w8 | w16.w16 | w32.w32 => exact absurd rfl hm
  all_goals rfl

/-- A register write stores into a channel or leaves it (10_state.md R32 to R39). -/
theorem State.writeReg_channel_cases (s : State) (r : Reg) (v : Word) (n : Width) :
    (s.writeReg r v).channel n = s.channel n ∨
      ∃ c, (s.writeReg r v).channel n = (s.channel n).store c v := by
  cases r with
  | chan m c =>
    by_cases hm : m = n
    · exact .inr ⟨c, hm ▸ s.writeReg_channel m c v⟩
    · exact .inl (s.writeReg_channel_of_ne hm c v)
  | status => exact .inl (by rw [s.writeReg_status v]; exact channel_congr rfl rfl rfl n)
  | cmd | addr | len | opnd | result | faultaddr => exact .inl (channel_congr rfl rfl rfl n)

/-! ### The commands by their class -/

/-- The ten rows of the opcode map: NOP, and three classes of three widths (30_encoding.md R81 to R83). -/
theorem Instr.eq_nop_or_of_width (i : Instr) :
    i = .nop ∨ ∃ n, i = mktblOf n ∨ i = calcCommand n ∨ i = revCommand n := by
  cases i with
  | nop => exact .inl rfl
  | mktbl8 => exact .inr ⟨.w8, .inl rfl⟩
  | mktbl16 => exact .inr ⟨.w16, .inl rfl⟩
  | mktbl32 => exact .inr ⟨.w32, .inl rfl⟩
  | calc8 => exact .inr ⟨.w8, .inr (.inl rfl)⟩
  | calc16 => exact .inr ⟨.w16, .inr (.inl rfl)⟩
  | calc32 => exact .inr ⟨.w32, .inr (.inl rfl)⟩
  | rev8 => exact .inr ⟨.w8, .inr (.inr rfl)⟩
  | rev16 => exact .inr ⟨.w16, .inr (.inr rfl)⟩
  | rev32 => exact .inr ⟨.w32, .inr (.inr rfl)⟩

theorem exec_calcCommand (s : State) (n : Width) :
    exec (calcCommand n) s = s.calc (s.channel n) (s.calcStep n) := by cases n <;> rfl

/-- Everything a command that answers a next state can have done, by its class. -/
theorem exec_cases {i : Instr} {s t : State} (h : exec i s = .next t) :
    (i = .nop ∧ t = s.finish .ok) ∨
    (∃ n, i = mktblOf n ∧ t = (s.build n).finish .ok) ∨
    (∃ n, i = calcCommand n ∧ s.calc (s.channel n) (s.calcStep n) = .next t) ∨
    (∃ n, i = revCommand n ∧ t = s.reverseOpnd n.bits) := by
  obtain rfl | ⟨n, rfl | rfl | rfl⟩ := Instr.eq_nop_or_of_width i
  · rw [exec_nop] at h
    exact .inl ⟨rfl, (Host.Outcome.next.inj h).symm⟩
  · rw [exec_mktblOf] at h
    exact .inr (.inl ⟨n, rfl, (Host.Outcome.next.inj h).symm⟩)
  · rw [exec_calcCommand] at h
    exact .inr (.inr (.inl ⟨n, rfl, h⟩))
  · rw [exec_revCommand] at h
    exact .inr (.inr (.inr ⟨n, rfl, (Host.Outcome.next.inj h).symm⟩))

/-- A command builds the table of its channel, if it is a MKTBL, and writes no other channel register. -/
theorem exec_channel {i : Instr} {s t : State} (h : exec i s = .next t) (n : Width) :
    t.channel n = s.channel n ∨ (i = mktblOf n ∧ t.channel n = (s.channel n).build) := by
  rcases exec_cases h with ⟨-, rfl⟩ | ⟨m, rfl, rfl⟩ | ⟨m, -, hcalc⟩ | ⟨m, -, rfl⟩
  · exact .inl (channel_congr rfl rfl rfl n)
  · have hfinish : ((s.build m).finish .ok).channel n = (s.build m).channel n := channel_congr rfl rfl rfl n
    by_cases hn : n = m
    · subst hn
      exact .inr ⟨rfl, hfinish.trans (s.build_channel n)⟩
    · exact .inl (hfinish.trans (s.build_channel_of_ne hn))
  · obtain ⟨h8, h16, h32⟩ := calc_channels hcalc
    exact .inl (channel_congr h8 h16 h32 n)
  · exact .inl (channel_congr rfl rfl rfl n)

/-- 10_state.md R30 as a rule of the commands. -/
theorem exec_result {i : Instr} {s t : State} (h : exec i s = .next t) :
    t.result = s.result ∨ (t.err = .ok ∧ ∃ n, i = calcCommand n ∨ i = revCommand n) := by
  rcases exec_cases h with ⟨-, rfl⟩ | ⟨n, -, rfl⟩ | ⟨n, rfl, hcalc⟩ | ⟨n, rfl, rfl⟩
  · exact .inl rfl
  · exact .inl (s.build_result n)
  · exact (calc_result hcalc).symm.imp_right fun hok => ⟨hok, n, .inl rfl⟩
  · exact .inr ⟨rfl, n, .inr rfl⟩

/-- 10_state.md R31 as a rule of the commands. -/
theorem exec_faultaddr {i : Instr} {s t : State} (h : exec i s = .next t) :
    t.faultaddr = s.faultaddr ∨ (t.err = .busFault ∧ ∃ n, i = calcCommand n) := by
  rcases exec_cases h with ⟨-, rfl⟩ | ⟨n, -, rfl⟩ | ⟨n, rfl, hcalc⟩ | ⟨n, -, rfl⟩
  · exact .inl rfl
  · exact .inl (s.build_faultaddr n)
  · exact (calc_faultaddr hcalc).symm.imp_right fun hfault => ⟨hfault, n, rfl⟩
  · exact .inl rfl

end Sys2Proof.Machine
end

section
/-! PROOFS. What one step of the machine can change, said once for each part of the state, and the statements over
every step: the invariant and the safety rules of 10_state.md, 20_memory.md and 70_reset_and_hazards.md. -/

namespace Sys2Proof.Machine

/-! ### The engine's turn -/

/-- What the engine's turn leaves in every field that no command writes; and nothing is pending after it
(70_reset_and_hazards.md R204). -/
theorem engineTurn_next {s t : State} (h : s.engineTurn = .next t) :
    t = { s with
      pending := none, raced := t.raced, draws := t.draws, err := t.err, result := t.result,
      faultaddr := t.faultaddr, bytesRead := t.bytesRead, ch8 := t.ch8, ch16 := t.ch16, ch32 := t.ch32 } := by
  rcases engineTurn_cases h with ⟨hidle, rfl⟩ | ⟨w, e, -, -, rfl⟩ | ⟨w, i, -, -, hexec⟩
  · rw [← hidle]
  · rfl
  · rw [exec_next hexec]

/-- The engine's turn runs the command whose word is pending, or writes no channel register, RESULT or FAULTADDR. -/
theorem engineTurn_exec_or_keeps {s t : State} (h : s.engineTurn = .next t) :
    (∃ i, s.pending = some (encode i) ∧ exec i s = .next t) ∨
      ((∀ n, t.channel n = s.channel n) ∧ t.result = s.result ∧ t.faultaddr = s.faultaddr) := by
  rcases engineTurn_cases h with ⟨-, rfl⟩ | ⟨w, e, -, -, rfl⟩ | ⟨w, i, hw, hdecode, hexec⟩
  · exact .inr ⟨fun _ => rfl, rfl, rfl⟩
  · exact .inr ⟨channel_congr rfl rfl rfl, rfl, rfl⟩
  · exact .inl ⟨i, eq_encode_of_decode hdecode ▸ hw, hexec⟩

/-- No byte is raced after the engine's turn, unless nothing was pending and it left the list as it was. -/
theorem engineTurn_raced {s t : State} (h : s.engineTurn = .next t) :
    t.raced = [] ∨ (s.pending = none ∧ t.raced = s.raced) := by
  rcases engineTurn_cases h with ⟨hidle, rfl⟩ | ⟨w, e, -, -, rfl⟩ | ⟨w, i, -, -, hexec⟩
  · exact .inr ⟨hidle, rfl⟩
  · exact .inl rfl
  · exact .inl (by rw [exec_next hexec])

/-- With nothing pending the engine has no step (70_reset_and_hazards.md R210). -/
theorem engineTurn_of_idle {s : State} (h : s.pending = none) : s.engineTurn = .next s := by
  simp only [State.engineTurn, State.fetched, h, State.idleTurn]

theorem step_of_engine {s : State} (h : s.nextEvent = .engine) : step s = s.popEvent.engineTurn := by
  simp only [step, h, State.move]

/-! ### A host write -/

theorem accessOk_eq_true_iff {off bits : Nat} : accessOk off bits = true ↔ bits = 32 ∧ off % 4 = 0 := by
  simp [accessOk]

/-- A host write changes the state otherwise than by its answer only where it reaches an offset of the block. -/
theorem hostWrite_answer_or_writesAt (s : State) (a bits : Nat) (v : Word) :
    (∃ x, s.hostWrite a bits v = s.answer x) ∨
      ∃ off, s.writesAt (.hostWrite a bits v) off v ∧
        s.hostWrite a bits v = ((s.hostStore off v).redraw).answer .written := by
  rcases hostWrite_cases s a bits v with ⟨-, hs⟩ | ⟨off, -, -, hs⟩ | ⟨off, hwindow, haccess, hs⟩
  · exact .inl ⟨_, hs⟩
  · exact .inl ⟨_, hs⟩
  · obtain ⟨rfl, halign⟩ := accessOk_eq_true_iff.mp haccess
    exact .inr ⟨off, ⟨a, rfl, hwindow, halign⟩, hs⟩

theorem hostStore_channel_cases (s : State) (off : Nat) (v : Word) (n : Width) :
    (s.hostStore off v).channel n = s.channel n ∨
      ∃ c, (s.hostStore off v).channel n = (s.channel n).store c v := by
  rcases hostStore_cases s off v with ⟨-, -, hs⟩ | ⟨-, -, hs⟩ | ⟨r, -, -, hs⟩
  · exact .inl (by rw [hs]; exact channel_congr rfl rfl rfl n)
  · exact .inl (by rw [hs])
  · rw [hs]
    exact s.writeReg_channel_cases r v n

/-- Only the write of CMD, which latches a word with no byte raced, changes the latch or the raced bytes. -/
theorem State.writeReg_pending_raced (s : State) (r : Reg) (v : Word) :
    (s.writeReg r v).raced = [] ∨ ((s.writeReg r v).pending = s.pending ∧ (s.writeReg r v).raced = s.raced) := by
  cases r with
  | cmd => exact .inl rfl
  | status => exact .inr (by rw [s.writeReg_status v]; exact ⟨rfl, rfl⟩)
  | chan n c => cases n <;> exact .inr ⟨rfl, rfl⟩
  | addr | len | opnd | result | faultaddr => exact .inr ⟨rfl, rfl⟩

theorem hostStore_pending_raced (s : State) (off : Nat) (v : Word) :
    (s.hostStore off v).raced = [] ∨
      ((s.hostStore off v).pending = s.pending ∧ (s.hostStore off v).raced = s.raced) := by
  rcases hostStore_cases s off v with ⟨-, -, hs⟩ | ⟨-, -, hs⟩ | ⟨r, -, -, hs⟩
  · exact .inr (by rw [hs]; exact ⟨rfl, rfl⟩)
  · exact .inr (by rw [hs]; exact ⟨rfl, rfl⟩)
  · rw [hs]
    exact s.writeReg_pending_raced r v

theorem State.writeReg_werr_of_ne_status (s : State) {r : Reg} (hr : r ≠ .status) (v : Word) :
    (s.writeReg r v).werr = s.werr := by
  cases r with
  | status => exact absurd rfl hr
  | chan n c => cases n <;> rfl
  | cmd | addr | len | opnd | result | faultaddr => rfl

/-- What a write at an aligned offset does to WERR (10_state.md R26, 70_reset_and_hazards.md R212). -/
theorem hostStore_werr (s : State) {off : Nat} (ho : off % 4 = 0) (v : Word) :
    (s.hostStore off v).werr = s.werr ∨
    (off = 0x004 ∧ (s.hostStore off v).werr = (s.werr && !v.getLsbD 8)) ∨
    (s.busy = true ∧ off ≠ 0x004 ∧ (s.hostStore off v).werr = true) := by
  rcases hostStore_cases s off v with ⟨hbusy, hne, hs⟩ | ⟨-, -, hs⟩ | ⟨r, hr, -, hs⟩ <;> rw [hs]
  · exact .inr (.inr ⟨hbusy, fun h => hne (h ▸ rfl), rfl⟩)
  · exact .inl rfl
  · by_cases hstatus : r = .status
    · subst hstatus
      exact .inr (.inl ⟨(regOffset_of_regAt ho hr).symm, by rw [s.writeReg_status v]⟩)
    · exact .inl (s.writeReg_werr_of_ne_status hstatus v)

/-! ### One step -/

/-- A move that is neither the engine's turn nor reset leaves RESULT, FAULTADDR and the platform. -/
theorem step_world_frame {s t : State} (h : step s = .next t) (hengine : s.nextEvent ≠ .engine)
    (hreset : s.nextEvent ≠ .reset) :
    t.result = s.result ∧ t.faultaddr = s.faultaddr ∧ t.platform = s.platform := by
  rcases step_cases h with ⟨he, -⟩ | ⟨a, bits, -, rfl⟩ | ⟨a, bits, v, -, rfl⟩ | ⟨a, b, -, rfl⟩ | ⟨he, -⟩
  · exact absurd he hengine
  · obtain ⟨x, hx⟩ := hostRead_eq s.popEvent a bits
    rw [hx]
    exact ⟨rfl, rfl, rfl⟩
  · obtain ⟨x, hx⟩ | ⟨off, -, hx⟩ := hostWrite_answer_or_writesAt s.popEvent a bits v
    · rw [hx]
      exact ⟨rfl, rfl, rfl⟩
    · rw [hx, hostStore_frame]
      exact ⟨rfl, rfl, rfl⟩
  · exact ⟨rfl, rfl, rfl⟩
  · exact absurd he hreset

/-- What a step can do to a channel. -/
theorem step_channel {s t : State} (h : step s = .next t) (n : Width) :
    t.channel n = s.channel n ∨
    (s.nextEvent = .engine ∧ s.pending = some (encode (mktblOf n)) ∧ t.channel n = (s.channel n).build) ∨
    (∃ c v, t.channel n = (s.channel n).store c v) ∨
    (s.nextEvent = .reset ∧ t.channel n = Channel.reset n.bits) := by
  have hpop : s.popEvent.channel n = s.channel n := channel_congr rfl rfl rfl n
  rcases step_cases h with ⟨he, hturn⟩ | ⟨a, bits, -, rfl⟩ | ⟨a, bits, v, -, rfl⟩ | ⟨a, b, -, rfl⟩ | ⟨he, rfl⟩
  · rcases engineTurn_exec_or_keeps hturn with ⟨i, hi, hexec⟩ | ⟨hkeep, -, -⟩
    · rcases exec_channel hexec n with hsame | ⟨rfl, hbuild⟩
      · exact .inl (hsame.trans hpop)
      · exact .inr (.inl ⟨he, hi, hpop ▸ hbuild⟩)
    · exact .inl ((hkeep n).trans hpop)
  · obtain ⟨x, hx⟩ := hostRead_eq s.popEvent a bits
    exact .inl (by rw [hx]; exact channel_congr rfl rfl rfl n)
  · obtain ⟨x, hx⟩ | ⟨off, -, hx⟩ := hostWrite_answer_or_writesAt s.popEvent a bits v
    · exact .inl (by rw [hx]; exact channel_congr rfl rfl rfl n)
    · have hstore : (s.popEvent.hostWrite a bits v).channel n = (s.popEvent.hostStore off v).channel n := by
        rw [hx]
        exact channel_congr rfl rfl rfl n
      rcases hostStore_channel_cases s.popEvent off v n with hsame | ⟨c, hc⟩
      · exact .inl ((hstore.trans hsame).trans hpop)
      · exact .inr (.inr (.inl ⟨c, v, hpop ▸ hstore.trans hc⟩))
  · exact .inl (channel_congr rfl rfl rfl n)
  · refine .inr (.inr (.inr ⟨he, ?_⟩))
    rw [← reset_channel n]
    exact channel_congr rfl rfl rfl n

/-- Only the move that writes a buffer byte changes buffer memory (20_memory.md R61). -/
theorem step_mem {s t : State} (h : step s = .next t) :
    t.mem = s.mem ∨ ∃ x b, s.nextEvent = .bufferWrite x b ∧ t.mem = Memory.write s.mem x.toNat b := by
  rcases step_cases h with ⟨-, hturn⟩ | ⟨a, bits, -, rfl⟩ | ⟨a, bits, v, -, rfl⟩ | ⟨a, b, he, rfl⟩ | ⟨-, rfl⟩
  · exact .inl (by rw [engineTurn_next hturn]; rfl)
  · obtain ⟨x, hx⟩ := hostRead_eq s.popEvent a bits
    exact .inl (by rw [hx]; rfl)
  · obtain ⟨x, hx⟩ | ⟨off, -, hx⟩ := hostWrite_answer_or_writesAt s.popEvent a bits v
    · exact .inl (by rw [hx]; rfl)
    · exact .inl (by rw [hx, hostStore_frame]; rfl)
  · exact .inr ⟨a, b, he, rfl⟩
  · exact .inl rfl

theorem step_platform {s t : State} (h : step s = .next t) : t.platform = s.platform := by
  by_cases hengine : s.nextEvent = .engine
  · rw [step_of_engine hengine] at h
    rw [engineTurn_next h]
    rfl
  · by_cases hreset : s.nextEvent = .reset
    · rw [step_of_reset hreset] at h
      rw [← Host.Outcome.next.inj h]
      rfl
    · obtain ⟨-, -, hplatform⟩ := step_world_frame h hengine hreset
      exact hplatform

/-- Bytes are raced after a step only while a command is pending, if they were before it. -/
theorem step_raced {s t : State} (h : step s = .next t) (hs : s.pending = none → s.raced = []) :
    t.pending = none → t.raced = [] := by
  rcases step_cases h with ⟨-, hturn⟩ | ⟨a, bits, -, rfl⟩ | ⟨a, bits, v, -, rfl⟩ | ⟨a, b, -, rfl⟩ | ⟨-, rfl⟩
  · rcases engineTurn_raced hturn with hnil | ⟨hidle, hsame⟩
    · exact fun _ => hnil
    · exact fun _ => hsame.trans (hs hidle)
  · obtain ⟨x, hx⟩ := hostRead_eq s.popEvent a bits
    rw [hx]
    exact hs
  · obtain ⟨x, hx⟩ | ⟨off, -, hx⟩ := hostWrite_answer_or_writesAt s.popEvent a bits v <;> rw [hx]
    · exact hs
    · rcases hostStore_pending_raced s.popEvent off v with hnil | ⟨hpending, hraced⟩
      · exact fun _ => hnil
      · exact fun hidle => hraced.trans (hs (hpending.symm.trans hidle))
  · intro hidle
    have hbusy : s.popEvent.busy = false := busy_eq_false_iff.mpr hidle
    rw [State.bufferWrite_raced, hbusy]
    exact hs hidle
  · exact fun _ => rfl

/-- What a step can do to WERR (10_state.md R26, 70_reset_and_hazards.md R212). -/
theorem step_werr {s t : State} (h : step s = .next t) :
    t.werr = s.werr ∨ (s.nextEvent = .reset ∧ t.werr = false) ∨
    ∃ off v, s.writesAt s.nextEvent off v ∧
      ((off = 0x004 ∧ t.werr = (s.werr && !v.getLsbD 8)) ∨ (s.busy = true ∧ off ≠ 0x004 ∧ t.werr = true)) := by
  rcases step_cases h with ⟨-, hturn⟩ | ⟨a, bits, -, rfl⟩ | ⟨a, bits, v, he, rfl⟩ | ⟨a, b, -, rfl⟩ | ⟨he, rfl⟩
  · exact .inl (by rw [engineTurn_next hturn]; rfl)
  · obtain ⟨x, hx⟩ := hostRead_eq s.popEvent a bits
    exact .inl (by rw [hx]; rfl)
  · obtain ⟨x, hx⟩ | ⟨off, hat, hx⟩ := hostWrite_answer_or_writesAt s.popEvent a bits v
    · exact .inl (by rw [hx]; rfl)
    · have hwerr : (s.popEvent.hostWrite a bits v).werr = (s.popEvent.hostStore off v).werr := by rw [hx]; rfl
      obtain ⟨busAddr, hevent, hwindow, halign⟩ := hat
      rcases hostStore_werr s.popEvent halign v with hsame | hclear | hset
      · exact .inl (hwerr.trans hsame)
      · exact .inr (.inr ⟨off, v, ⟨busAddr, he.trans hevent, hwindow, halign⟩, .inl (hwerr ▸ hclear)⟩)
      · exact .inr (.inr ⟨off, v, ⟨busAddr, he.trans hevent, hwindow, halign⟩, .inr (hwerr ▸ hset)⟩)
  · exact .inl rfl
  · exact .inr (.inl ⟨he, rfl⟩)

/-- From a busy state a move that is neither the engine's turn nor reset changes WERR alone of what the block holds:
the rest of what it changes is buffer memory and the model's records (70_reset_and_hazards.md R212). -/
theorem step_of_busy {s t : State} (h : step s = .next t) (hbusy : s.busy = true) (hengine : s.nextEvent ≠ .engine)
    (hreset : s.nextEvent ≠ .reset) :
    t = { s with
      werr := t.werr, mem := t.mem, raced := t.raced, agenda := s.agenda.tail, answers := t.answers,
      draws := t.draws } := by
  rcases step_cases h with ⟨he, -⟩ | ⟨a, bits, -, rfl⟩ | ⟨a, bits, v, -, rfl⟩ | ⟨a, b, -, rfl⟩ | ⟨he, -⟩
  · exact absurd he hengine
  · obtain ⟨x, hx⟩ := hostRead_eq s.popEvent a bits
    rw [hx]
    rfl
  · obtain ⟨x, hx⟩ | ⟨off, -, hx⟩ := hostWrite_answer_or_writesAt s.popEvent a bits v <;> rw [hx]
    · rfl
    · by_cases hat : regAt off = some .status
      · rw [hostStore_of_regAt_status s.popEvent v hat, State.writeReg_status]
        rfl
      · rw [hostStore_busy_of_regAt_ne_status (s := s.popEvent) v hat hbusy]
        rfl
  · rfl
  · exact absurd he hreset

/-! ### The invariant -/

/-- The invariant with its clause on bindings said for every width. -/
theorem State.inv_iff {s : State} :
    s.Inv ↔ Memory.wf s.mem = true ∧ (∀ n, (s.channel n).BindingOk) ∧ (s.pending = none → s.raced = []) where
  mp h := ⟨h.mem, fun n => match n with | .w8 => h.bind8 | .w16 => h.bind16 | .w32 => h.bind32, h.raced⟩
  mpr := fun ⟨hmem, hbind, hraced⟩ => ⟨hmem, hbind .w8, hbind .w16, hbind .w32, hraced⟩

theorem Channel.reset_bindingOk (w : Nat) : (Channel.reset w).BindingOk := ⟨rfl, rfl⟩

/-- MKTBL makes the binding name the table it builds (40_table_builder.md R104 to R106). -/
theorem Channel.build_bindingOk {w : Nat} (c : Channel w) : c.build.BindingOk := by
  simp [Channel.BindingOk]

theorem Channel.store_bindingOk {w : Nat} {c : Channel w} (h : c.BindingOk) (r : ChanReg) (v : Word) :
    (c.store r v).BindingOk := by
  obtain ⟨hvalid, hdir, hpoly, htable⟩ := c.store_binding r v
  rw [Channel.BindingOk, hvalid, hdir, hpoly, htable]
  exact h

/-- Settles O44: reset lists no byte, builds no table and leaves no command pending. -/
theorem resetHasInvariant : Obligations.ResetHasInvariant :=
  State.inv_iff.mpr ⟨reset_mem_wf, fun n => reset_channel n ▸ Channel.reset_bindingOk n.bits, fun _ => rfl⟩

/-- Settles O43: each clause of the invariant is kept by the part of the step that can touch it: a write keeps memory
canonical, MKTBL binds the table it builds, and bytes are raced by a buffer write while busy alone. -/
theorem stepKeepsInvariant : Obligations.StepKeepsInvariant := by
  intro s t hinv h
  obtain ⟨hmem, hbind, hraced⟩ := State.inv_iff.mp hinv
  refine State.inv_iff.mpr ⟨?_, fun n => ?_, step_raced h hraced⟩
  · rcases step_mem h with hsame | ⟨x, b, -, hwrite⟩
    · exact hsame ▸ hmem
    · exact hwrite ▸ Memory.write_wf hmem x b
  · rcases step_channel h n with hsame | ⟨-, -, hbuild⟩ | ⟨c, v, hstore⟩ | ⟨-, hreset⟩
    · exact hsame ▸ hbind n
    · exact hbuild ▸ (s.channel n).build_bindingOk
    · exact hstore ▸ Channel.store_bindingOk (hbind n) c v
    · exact hreset ▸ Channel.reset_bindingOk n.bits

/-! ### What no step changes -/

/-- Settles O45: neither the engine's turn nor reset nor a move of the world writes the platform. -/
theorem platformNeverChanges : Obligations.PlatformNeverChanges := fun _ _ => step_platform

/-- Settles O46: only a `bufferWrite` move writes memory, and it writes one address. -/
theorem blockNeverWritesBufferMemory : Obligations.BlockNeverWritesBufferMemory := by
  intro s t h a hother
  rcases step_mem h with hsame | ⟨x, b, he, hwrite⟩
  · rw [hsame]
  · rw [hwrite, Memory.read_write_other _ _ (hother x b he).symm]

/-! ### The tables -/

theorem Channel.store_sameBinding {w : Nat} (c : Channel w) (r : ChanReg) (v : Word) :
    c.SameBinding (c.store r v) := by
  obtain ⟨hvalid, hdir, hpoly, htable⟩ := c.store_binding r v
  exact ⟨hvalid, hdir, hpoly, fun i => by rw [htable]⟩

/-- Settles O47: MKTBL of the channel and reset apart, a step leaves the channel or stores into it, and a store leaves
the table and the binding. -/
theorem onlyMktblWritesTheBinding : Obligations.OnlyMktblWritesTheBinding := by
  intro s t n h hreset hmktbl
  rw [sameBinding_iff_channel]
  rcases step_channel h n with hsame | ⟨he, hw, -⟩ | ⟨c, v, hstore⟩ | ⟨he, -⟩
  · exact .of_eq hsame
  · exact absurd ⟨he, hw⟩ hmktbl
  · exact hstore ▸ (s.channel n).store_sameBinding c v
  · exact absurd he hreset

/-- Settles O48: MKTBL sets TVALID, a store leaves it, and only reset is left to clear it. -/
theorem onlyResetClearsTvalid : Obligations.OnlyResetClearsTvalid := by
  intro s t n h hvalid hreset
  rw [tvalid_eq_channel] at hvalid ⊢
  rcases step_channel h n with hsame | ⟨-, -, hbuild⟩ | ⟨c, v, hstore⟩ | ⟨he, -⟩
  · exact hsame ▸ hvalid
  · rw [hbuild, Channel.build_tvalid]
  · rw [hstore]
    exact ((s.channel n).store_sameBinding c v).tvalid.trans hvalid
  · exact absurd he hreset

/-! ### WERR -/

/-- Settles O49: of the writes that reach the block, only one of STATUS with bit 8 set clears WERR. -/
theorem werrIsSticky : Obligations.WerrIsSticky := by
  intro s t h hset hreset hnoclear
  rcases step_werr h with hsame | ⟨he, -⟩ | ⟨off, v, hat, ⟨rfl, hclear⟩ | ⟨-, -, hrefused⟩⟩
  · exact hsame.trans hset
  · exact absurd he hreset
  · rw [hclear, hset, hnoclear v hat]
    rfl
  · exact hrefused

/-- Settles O50: only a refused write sets WERR, and a host that waits makes none. -/
theorem waitingHostSetsNoWerr : Obligations.WaitingHostSetsNoWerr := by
  intro s t h hclear hwaits
  rcases step_werr h with hsame | ⟨-, hreset⟩ | ⟨off, v, hat, ⟨-, hstatus⟩ | ⟨hbusy, hne, -⟩⟩
  · exact hsame.trans hclear
  · exact hreset
  · rw [hstatus, hclear, Bool.false_and]
  · exact absurd (hwaits hbusy off v hat) hne

/-! ### RESULT and FAULTADDR -/

/-- A step that is not reset and changes RESULT or FAULTADDR is the engine's turn running a command. -/
theorem step_exec_of_changed {s t : State} (h : step s = .next t) (hreset : s.nextEvent ≠ .reset)
    (hchanged : t.result ≠ s.result ∨ t.faultaddr ≠ s.faultaddr) :
    s.nextEvent = .engine ∧ ∃ i, s.pending = some (encode i) ∧ exec i s.popEvent = .next t := by
  by_cases hengine : s.nextEvent = .engine
  · rw [step_of_engine hengine] at h
    rcases engineTurn_exec_or_keeps h with hexec | ⟨-, hresult, hfaultaddr⟩
    · exact ⟨hengine, hexec⟩
    · exact absurd hchanged (not_or.mpr ⟨not_not.mpr hresult, not_not.mpr hfaultaddr⟩)
  · obtain ⟨hresult, hfaultaddr, -⟩ := step_world_frame h hengine hreset
    exact absurd hchanged (not_or.mpr ⟨not_not.mpr hresult, not_not.mpr hfaultaddr⟩)

/-- Settles O51: a command that changes RESULT is a CALC or a REV, and ends with OK. -/
theorem onlySuccessWritesResult : Obligations.OnlySuccessWritesResult := by
  intro s t h hreset hchanged
  obtain ⟨he, i, hi, hexec⟩ := step_exec_of_changed h hreset (.inl hchanged)
  rcases exec_result hexec with hsame | ⟨hok, n, hclass⟩
  · exact absurd hsame hchanged
  · refine ⟨he, hok, n, hclass.imp ?_ ?_⟩
    · exact fun hcalc => hcalc ▸ hi
    · exact fun hrev => hrev ▸ hi

/-- Settles O52: a command that changes FAULTADDR is a CALC, and ends with BUS_FAULT. -/
theorem onlyBusFaultWritesFaultaddr : Obligations.OnlyBusFaultWritesFaultaddr := by
  intro s t h hreset hchanged
  obtain ⟨he, i, hi, hexec⟩ := step_exec_of_changed h hreset (.inr hchanged)
  rcases exec_faultaddr hexec with hsame | ⟨hfault, n, hcalc⟩
  · exact absurd hsame hchanged
  · exact ⟨he, hfault, n, hcalc ▸ hi⟩

/-! ### The pending command -/

/-- The registers other than STATUS hold what stands in these fields. -/
theorem regValue_congr {s t : State} (haddr : t.addr = s.addr) (hlen : t.len = s.len) (hopnd : t.opnd = s.opnd)
    (hresult : t.result = s.result) (hfaultaddr : t.faultaddr = s.faultaddr)
    (hchannel : ∀ n, t.channel n = s.channel n) {r : Reg} (hr : r ≠ .status) : t.regValue r = s.regValue r := by
  cases r with
  | cmd => rfl
  | status => exact absurd rfl hr
  | addr => exact haddr
  | len => exact hlen
  | opnd => exact hopnd
  | result => exact hresult
  | faultaddr => exact hfaultaddr
  | chan n c => rw [regValue_chan, regValue_chan, hchannel n]

/-- Settles O53: from a busy state such a step leaves the latch and every field a register other than STATUS shows. -/
theorem pendingCommandKeepsItsOperands : Obligations.PendingCommandKeepsItsOperands := by
  intro s t h hbusy hengine hreset
  rw [step_of_busy h hbusy hengine hreset]
  refine ⟨rfl, rfl, fun r hr => ?_⟩
  refine regValue_congr ?_ ?_ ?_ ?_ ?_ (channel_congr ?_ ?_ ?_) hr <;> rfl

/-- Nothing is pending after the engine's turn (70_reset_and_hazards.md R204). -/
theorem step_engine_busy {s t : State} (h : step s = .next t) (he : s.nextEvent = .engine) : t.busy = false := by
  rw [step_of_engine he] at h
  rw [engineTurn_next h]
  rfl

/-- Settles O54: the engine's turn leaves nothing pending, and with nothing pending it is the state itself. -/
theorem engineStepClearsBusy : Obligations.EngineStepClearsBusy := by
  intro s t h he
  refine ⟨step_engine_busy h he, fun hidle r => ?_⟩
  rw [step_of_engine he, engineTurn_of_idle (s := s.popEvent) (busy_eq_false_iff.mp hidle)] at h
  rw [← Host.Outcome.next.inj h]
  rfl

end Sys2Proof.Machine
end

section
/-! PROOFS. 30_encoding.md: the legal words by their fields (R80 to R82, R86), and the listed words (R83). -/

namespace Sys2Proof

/-- CLS values 1 to 3 are those of the classes with a width code (30_encoding.md R81). -/
theorem exists_cls_of_code {x : Nat} (hlo : 1 ≤ x) (hhi : x ≤ 3) : ∃ k : Cls, k ≠ .nop ∧ k.code.toNat = x := by
  interval_cases x
  · exact ⟨.mktbl, by decide, rfl⟩
  · exact ⟨.calc, by decide, rfl⟩
  · exact ⟨.rev, by decide, rfl⟩

/-- WC values 1 to 3 are those of the widths (30_encoding.md R82). -/
theorem exists_width_of_code {x : Nat} (hlo : 1 ≤ x) (hhi : x ≤ 3) : ∃ n : Width, n.code.toNat = x := by
  interval_cases x
  · exact ⟨.w8, rfl⟩
  · exact ⟨.w16, rfl⟩
  · exact ⟨.w32, rfl⟩

/-- The word of a command with a width is its class and width codes, in bits 7 to 4 and 3 to 0. -/
theorem toNat_encode_classCommand {k : Cls} (hk : k ≠ .nop) (n : Width) :
    (encode (classCommand k n)).toNat = 16 * k.code.toNat + n.code.toNat := by
  cases k
  case nop => exact absurd rfl hk
  all_goals cases n <;> rfl

/-- Settles O2: the ten words have such fields, and a word with such fields is that of NOP, or of the class and the
width its fields name. -/
theorem legalWordsByTheirFields : Obligations.LegalWordsByTheirFields := by
  intro w
  simp only [decode_eq_ok_iff]
  constructor
  · rintro ⟨i, rfl⟩
    cases i <;> decide
  · rintro ⟨hz, hcls, hnop, hwidth⟩
    by_cases hzero : w.toNat / 16 % 16 = 0
    · refine ⟨.nop, BitVec.eq_of_toNat_eq ?_⟩
      have hwc := hnop hzero
      show w.toNat = 0
      omega
    · obtain ⟨hlo, hhi⟩ := hwidth hzero
      obtain ⟨k, hk, hkcode⟩ := exists_cls_of_code (Nat.one_le_iff_ne_zero.mpr hzero) hcls
      obtain ⟨n, hncode⟩ := exists_width_of_code hlo hhi
      refine ⟨classCommand k n, BitVec.eq_of_toNat_eq ?_⟩
      rw [toNat_encode_classCommand hk, hkcode, hncode]
      omega

/-- Settles O3: four words of the opcode map and the ten illegal ones, by evaluation of the decoder. -/
theorem listedWordsDecode : Obligations.ListedWordsDecode := ⟨rfl, rfl, rfl, rfl, by decide⟩

/-- A table row's bits decode as the 32-bit word they make (30_encoding.md R80). -/
theorem decode_tableWord {nbits w : Nat} {i : Instr} (h : decodeTableWord nbits w = some i) :
    decode (tableWord nbits w) = .ok i := by
  unfold decodeTableWord at h
  split at h
  case isTrue =>
    split at h
    case h_1 hdecode => rw [hdecode, Option.some.inj h]
    case h_2 => cases h
  case isFalse => cases h

end Sys2Proof

namespace Sys2Proof.Machine

/-! ### The engine's turn on the pending word -/

/-- What the engine finds in the latch is a command exactly when the command's word is pending (30_encoding.md R84). -/
theorem fetched_eq_command_iff {s : State} {i : Instr} : s.fetched = .command i ↔ s.pending = some (encode i) := by
  unfold State.fetched
  cases s.pending with
  | none => simp
  | some w =>
    cases hd : decode w with
    | error e => simp [← decode_eq_ok_iff, hd]
    | ok j => simp [← decode_eq_ok_iff, hd]

theorem engineTurn_of_pending {s : State} {i : Instr} (h : s.pending = some (encode i)) :
    s.engineTurn = exec i s := by
  simp only [State.engineTurn, fetched_eq_command_iff.mpr h]

/-- Settles O4: at the engine's turn the step is the command the latch holds. -/
theorem stepRunsThePendingCommand : Obligations.StepRunsThePendingCommand := by
  intro s w i he hw hdecode
  have hpending : s.popEvent.pending = some (encode i) := eq_encode_of_decode hdecode ▸ hw
  exact (step_of_engine he).trans (engineTurn_of_pending hpending)

/-- Settles O5: `withFetchWord` latches the word and puts the engine's turn in front, so the step runs the command
the latch holds. -/
theorem fetchWordRunsNext : Obligations.FetchWordRunsNext := fun s nbits w i h =>
  stepRunsThePendingCommand (s.withFetchWord nbits w) (tableWord nbits w) i rfl rfl (decode_tableWord h)

/-- Settles O7: with nothing pending the engine's turn, on the agenda or for want of a move, stutters. -/
theorem idleBlockKeepsEverything : Obligations.IdleBlockKeepsEverything := by
  intro s hidle
  have hturn : s.popEvent.engineTurn = .next s.popEvent := engineTurn_of_idle hidle
  refine ⟨fun hnil => ?_, fun rest hrest => ?_⟩
  · have hpop : s.popEvent = s := by rw [State.popEvent, hnil, List.tail_nil, ← hnil]
    rw [step_of_engine (by simp [State.nextEvent, hnil]), hturn, hpop]
  · rw [step_of_engine (by simp [State.nextEvent, hrest]), hturn, State.popEvent, hrest, List.tail_cons]

end Sys2Proof.Machine
end

section
/-! PROOFS. 10_state.md: the register map (R23), the value of every register by its fields and what a host read of it
returns (R24 to R39; 70_reset_and_hazards.md R211), and the writes of the registers (R25 to R39). -/

namespace Sys2Proof.Machine

/-! ### The register map -/

theorem chanRegOffset_lt (c : ChanReg) : chanRegOffset c < 0x800 := by
  cases c with
  | table i =>
    have hi := i.isLt
    simp only [chanRegOffset]
    omega
  | poly | init | xorout | cfg | tblstat | tblpoly => decide

theorem chanRegOffset_mod_four (c : ChanReg) : chanRegOffset c % 4 = 0 := by
  cases c with
  | table i =>
    simp only [chanRegOffset]
    omega
  | poly | init | xorout | cfg | tblstat | tblpoly => rfl

theorem chanRegAt_chanRegOffset (c : ChanReg) : chanRegAt (chanRegOffset c) = some c := by
  cases c with
  | table i =>
    have hi := i.isLt
    have hindex : (0x400 + 4 * i.toNat - 0x400) / 4 = i.toNat := by omega
    have hlo : ¬ 0x400 + 4 * i.toNat < 0x400 := by omega
    have hhi : 0x400 + 4 * i.toNat < 0x800 := by omega
    rw [chanRegOffset, chanRegAt, if_neg hlo, if_pos hhi, hindex, BitVec.ofNat_toNat, BitVec.setWidth_eq]
  | poly | init | xorout | cfg | tblstat | tblpoly => rfl

/-- The part of the window that starts at CB(n) is channel n's (10_state.md R23). -/
theorem regAt_channelBase_add (n : Width) {o : Nat} (ho : o < 0x1000) :
    regAt (channelBase n + o) = (chanRegAt o).map (Reg.chan n) := by
  have hmod : (channelBase n + o) % 0x1000 = o := by cases n <;> simp only [channelBase] <;> omega
  have hdiv : (channelBase n + o) / 0x1000 = n.index + 1 := by
    cases n <;> simp only [channelBase, Width.index] <;> omega
  rw [regAt, hmod, hdiv]
  cases n <;> rfl

@[simp] theorem regAt_regOffset (r : Reg) : regAt (regOffset r) = some r := by
  cases r with
  | chan n c =>
    have hlt : chanRegOffset c < 0x1000 := (chanRegOffset_lt c).trans (by decide)
    rw [regOffset, regAt_channelBase_add n hlt, chanRegAt_chanRegOffset, Option.map_some]
  | cmd | status | addr | len | opnd | result | faultaddr => rfl

theorem regOffset_mod_four (r : Reg) : regOffset r % 4 = 0 := by
  cases r with
  | chan n c =>
    have hc := chanRegOffset_mod_four c
    cases n <;> simp only [regOffset, channelBase] <;> omega
  | cmd | status | addr | len | opnd | result | faultaddr => rfl

theorem regOffset_lt_windowSize (r : Reg) : regOffset r < windowSize := by
  cases r with
  | chan n c =>
    have hc := chanRegOffset_lt c
    cases n <;> simp only [regOffset, channelBase, windowSize] <;> omega
  | cmd | status | addr | len | opnd | result | faultaddr => decide

/-- Settles O28: the offsets are those of the map, and the register at an offset is read back both ways. -/
theorem registerMapIsOneToOne : Obligations.RegisterMapIsOneToOne := by
  refine ⟨⟨rfl, rfl, rfl, rfl, rfl, rfl, rfl⟩, fun n => ?_,
    fun r => ⟨regAt_regOffset r, regOffset_mod_four r, regOffset_lt_windowSize r⟩,
    fun _ _ => regOffset_of_regAt⟩
  cases n <;> exact ⟨rfl, rfl, rfl, rfl, rfl, rfl, fun i => (Nat.add_assoc _ _ _).symm⟩

/-! ### The words of the status fields, bit by bit -/

/-- 10_state.md R26. -/
theorem getLsbD_statusWord (busy werr : Bool) (err : BitVec 4) (i : Nat) :
    (statusWord busy err werr).getLsbD i =
      ((busy && decide (i = 0)) || (decide (4 ≤ i) && err.getLsbD (i - 4)) || (werr && decide (i = 8))) := by
  rw [statusWord, BitVec.getLsbD_or, BitVec.getLsbD_or, getLsbD_bitAt _ _ _ (by decide),
    getLsbD_bitAt _ _ _ (by decide), BitVec.getLsbD_shiftLeft, BitVec.getLsbD_setWidth]
  by_cases hi : i - 4 < 4
  · have h32 : i < 32 := by omega
    have h4 : i - 4 < 32 := by omega
    by_cases hlo : i < 4
    · simp [h32, hlo, Nat.not_le.mpr hlo]
    · simp [h32, h4, hlo, Nat.not_lt.mp hlo]
  · simp [BitVec.getLsbD_of_ge err (i - 4) (by omega)]

/-- The fields of STATUS (10_state.md R26). -/
theorem statusWord_fields (busy werr : Bool) (err : BitVec 4) :
    (statusWord busy err werr).getLsbD 0 = busy ∧ (statusWord busy err werr).getLsbD 8 = werr ∧
    (∀ i, (1 ≤ i ∧ i ≤ 3) ∨ 9 ≤ i → (statusWord busy err werr).getLsbD i = false) ∧
    (statusWord busy err werr).extractLsb' 4 4 = err := by
  simp only [getLsbD_statusWord]
  refine ⟨by simp, by simp, fun i hi => ?_, BitVec.eq_of_getLsbD_eq fun i hi => ?_⟩
  · rcases hi with hlow | hhigh
    · simp [show i ≠ 0 by omega, show ¬ 4 ≤ i by omega, show i ≠ 8 by omega]
    · simp [show i ≠ 0 by omega, show i ≠ 8 by omega, BitVec.getLsbD_of_ge err (i - 4) (by omega)]
  · simp [getLsbD_statusWord, hi, show i + 4 ≠ 8 by omega, Nat.add_comm 4 i]

/-- 10_state.md R36. -/
theorem getLsbD_cfgWord (c : Cfg) (i : Nat) :
    c.word.getLsbD i =
      ((c.refin && decide (i = 0)) || (c.refout && decide (i = 1)) || (c.dir.bit && decide (i = 2))) := by
  simp only [Cfg.word, BitVec.getLsbD_or, getLsbD_bitAt _ _ _ (show 0 < 32 by decide),
    getLsbD_bitAt _ _ _ (show 1 < 32 by decide), getLsbD_bitAt _ _ _ (show 2 < 32 by decide)]

/-- 10_state.md R37. -/
theorem getLsbD_tblstatWord (tvalid : Bool) (tdir : Dir) (i : Nat) :
    (tblstatWord tvalid tdir).getLsbD i = ((tvalid && decide (i = 0)) || (tdir.bit && decide (i = 2))) := by
  simp only [tblstatWord, BitVec.getLsbD_or, getLsbD_bitAt _ _ _ (show 0 < 32 by decide),
    getLsbD_bitAt _ _ _ (show 2 < 32 by decide)]

theorem Dir.bit_eq_true_iff {d : Dir} : d.bit = true ↔ d = .right := by cases d <;> decide

/-- Zero extension keeps the value (10_state.md R24). -/
theorem toNat_zext32 {w : Nat} (hw : w ≤ 32) (v : BitVec w) : (zext32 v).toNat = v.toNat :=
  BitVec.toNat_setWidth_of_le hw

/-! ### The value of every register by its fields -/

theorem Channel.regValue_readsAs {w : Nat} (hw : w ≤ 32) (c : Channel w) (r : ChanReg) :
    c.ReadsAs r (c.regValue r) := by
  cases r with
  | poly | init | xorout | tblpoly | table i => exact toNat_zext32 hw _
  | cfg =>
    simp only [Channel.ReadsAs, Channel.regValue, getLsbD_cfgWord]
    refine ⟨by simp, by simp, by simp [Dir.bit_eq_true_iff], fun i hi => ?_⟩
    simp [show i ≠ 0 by omega, show i ≠ 1 by omega, show i ≠ 2 by omega]
  | tblstat =>
    simp only [Channel.ReadsAs, Channel.regValue, getLsbD_tblstatWord]
    refine ⟨by simp, by simp [Dir.bit_eq_true_iff], fun i h0 h2 => ?_⟩
    simp [h0, h2]

theorem State.regValue_readsAs (s : State) (r : Reg) : s.ReadsAs r (s.regValue r) := by
  cases r with
  | cmd | addr | len | opnd | result | faultaddr => rfl
  | status =>
    obtain ⟨hbusy, hwerr, hzero, herr⟩ := statusWord_fields s.busy s.werr s.err.code
    exact ⟨hbusy, hwerr, hzero, herr.trans (by cases s.err <;> rfl)⟩
  | chan n c =>
    rw [readsAs_chan_iff, regValue_chan]
    exact (s.channel n).regValue_readsAs (bits_le_32 n) c

/-! ### Host reads of a register -/

theorem hostLoad_regOffset (s : State) (r : Reg) : s.hostLoad (regOffset r) = s.readReg r := by
  simp only [State.hostLoad, regAt_regOffset]

theorem readReg_status (s : State) : s.readReg .status = statusWord s.busy s.readErr s.werr := rfl

/-- A register whose read is not free reads its value (70_reset_and_hazards.md R211). -/
theorem readReg_eq_regValue {s : State} {r : Reg} (hfree : s.readIsFree r = false)
    (hstatus : r = .status → s.busy = false) : s.readReg r = s.regValue r := by
  cases r with
  | status => simp [State.readReg, State.readIsFree, State.regValue, State.readErr, hstatus rfl]
  | cmd | addr | len | opnd | result | faultaddr | chan n c => simp [State.readReg, hfree]

/-- Unless a MKTBL of the channel is pending its registers read their values, TABLE once it is built
(70_reset_and_hazards.md R211, 10_state.md R39). -/
theorem chanReadIsFree_eq_false {s : State} {n : Width} {c : ChanReg} (hmktbl : s.fetched ≠ .command (mktblOf n))
    (htable : ∀ i, c = .table i → s.tvalid n = true) : s.chanReadIsFree n c = false := by
  cases c with
  | table i => simp [State.chanReadIsFree, hmktbl, htable i rfl]
  | poly | init | xorout | cfg | tblstat | tblpoly => simp [State.chanReadIsFree, hmktbl]

theorem fetched_ne_command_of_idle {s : State} (hb : s.busy = false) (i : Instr) : s.fetched ≠ .command i := by
  rw [Ne, fetched_eq_command_iff, busy_eq_false_iff.mp hb]
  exact nofun

/-- While idle a host read of a register returns its value, a TABLE only once it is built. -/
theorem hostLoad_of_idle {s : State} {r : Reg} (hb : s.busy = false)
    (htable : ∀ n i, r = .chan n (.table i) → s.tvalid n = true) : s.hostLoad (regOffset r) = s.regValue r := by
  rw [hostLoad_regOffset]
  refine readReg_eq_regValue ?_ fun _ => hb
  cases r with
  | chan n c =>
    exact chanReadIsFree_eq_false (fetched_ne_command_of_idle hb _) fun i hc => htable n i (by rw [hc])
  | result | faultaddr => exact hb
  | cmd | status | addr | len | opnd => rfl

/-- Settles O55: each register's word has the bits of its fields, and while idle a host read returns that word. -/
theorem idleReadsReturnTheFields : Obligations.IdleReadsReturnTheFields :=
  ⟨State.regValue_readsAs, fun s r hb htable => hostLoad_of_idle hb htable ▸ s.regValue_readsAs r⟩

/-- Settles O38: what a pending command may write is RESULT, FAULTADDR and, for a MKTBL, its channel's table and
binding; the read of anything else is not free. -/
theorem busyReadsOfOtherRegisters : Obligations.BusyReadsOfOtherRegisters := by
  intro s w r hw hstatus hresult hfaultaddr htable hmktbl
  rw [hostLoad_regOffset]
  refine readReg_eq_regValue ?_ fun h => absurd h hstatus
  cases r with
  | cmd | addr | len | opnd => rfl
  | status => rfl
  | result => exact absurd rfl hresult
  | faultaddr => exact absurd rfl hfaultaddr
  | chan n c =>
    by_cases hn : s.fetched = .command (mktblOf n)
    · have hword : w = encode (mktblOf n) := Option.some.inj (hw.symm.trans (fetched_eq_command_iff.mp hn))
      rcases hmktbl n hword c rfl with rfl | rfl | rfl | rfl <;> rfl
    · exact chanReadIsFree_eq_false hn fun i hc => htable n i (by rw [hc])

theorem ErrCode.code_toNat_le (e : ErrCode) : e.code.toNat ≤ 4 := by cases e <;> decide

/-- Settles O36: the fields of the STATUS word as read, and a write of STATUS, which is accepted whatever BUSY is. -/
theorem statusFieldsAndWrite : Obligations.StatusFieldsAndWrite := by
  intro s v
  have hload : s.hostLoad 0x004 = statusWord s.busy s.readErr s.werr :=
    (hostLoad_regOffset s .status).trans (readReg_status s)
  obtain ⟨hbusy, hwerr, hzero, herr⟩ := statusWord_fields s.busy s.werr s.readErr
  rw [hload]
  refine ⟨hbusy, hwerr, hzero, fun hidle => ⟨herr.trans ?_, s.err.code_toNat_le⟩,
    (hostStore_of_regAt_status s v rfl).trans (s.writeReg_status v)⟩
  simp [State.readErr, hidle]

/-! ### Writes of the registers while idle -/

theorem hostStore_regOffset_of_idle {s : State} (r : Reg) (v : Word) (hb : s.busy = false) :
    s.hostStore (regOffset r) v = s.writeReg r v :=
  hostStore_idle_of_regAt_some v (regAt_regOffset r) hb

theorem Channel.store_of_readOnly {w : Nat} (c : Channel w) {n : Width} {r : ChanReg} (v : Word)
    (h : readOnly (.chan n r) = true) : c.store r v = c := by
  cases r with
  | poly | init | xorout | cfg => cases h
  | tblstat | tblpoly | table i => rfl

theorem State.writeReg_of_readOnly (s : State) {r : Reg} (v : Word) (h : readOnly r = true) :
    s.writeReg r v = s := by
  cases r with
  | cmd | status | addr | len | opnd => cases h
  | result | faultaddr => rfl
  | chan n c => cases n <;> simp only [State.writeReg, Channel.store_of_readOnly _ v h]

/-- Settles O34: the write of a read-only register is the identity. -/
theorem readOnlyWritesAreIgnored : Obligations.ReadOnlyWritesAreIgnored := fun s r v hb hr =>
  (hostStore_regOffset_of_idle r v hb).trans (s.writeReg_of_readOnly v hr)

/-- Settles O37: the write of CMD while idle is the latch, which no register but STATUS shows. -/
theorem cmdWriteLatches : Obligations.CmdWriteLatches := by
  intro s v
  refine ⟨hostLoad_regOffset s .cmd, fun hb => ?_⟩
  rw [hostStore_cmd_of_idle v hb]
  refine ⟨rfl, rfl, rfl, rfl, fun r hr => ?_, rfl⟩
  refine regValue_congr ?_ ?_ ?_ ?_ ?_ (channel_congr ?_ ?_ ?_) hr <;> rfl

theorem Dir.ofBit_eq_ite (b : Bool) : Dir.ofBit b = if b then .right else .left := by cases b <;> rfl

/-- 10_state.md R32, R34 to R36: the register written holds the bits its rule names. -/
theorem Channel.store_stored {w : Nat} (c : Channel w) (r : ChanReg) (v : Word) : (c.store r v).Stored r v := by
  cases r with
  | poly | init | xorout => exact BitVec.toNat_setWidth w v
  | cfg =>
    exact ⟨rfl, rfl, Dir.ofBit_eq_ite _⟩
  | tblstat | tblpoly | table i => trivial

theorem State.writeReg_stored (s : State) (r : Reg) (v : Word) : (s.writeReg r v).Stored r v := by
  cases r with
  | addr | len | opnd => rfl
  | cmd | status | result | faultaddr => trivial
  | chan n c =>
    rw [stored_chan_iff, s.writeReg_channel]
    exact (s.channel n).store_stored c v

/-- A value cut to W bits and zero-extended is the value masked with W ones (10_state.md R24). -/
theorem zext32_setWidth {w : Nat} (hw : w ≤ 32) (v : Word) :
    zext32 (v.setWidth w) = v &&& BitVec.ofNat 32 (2 ^ w - 1) := by
  apply BitVec.eq_of_toNat_eq
  have hmask : 2 ^ w - 1 < 2 ^ 32 :=
    lt_of_lt_of_le (Nat.sub_lt (Nat.two_pow_pos w) Nat.one_pos) (Nat.pow_le_pow_right (by decide) hw)
  rw [toNat_zext32 hw, BitVec.toNat_setWidth, BitVec.toNat_and, BitVec.toNat_ofNat, Nat.mod_eq_of_lt hmask,
    Nat.and_two_pow_sub_one_eq_mod]

theorem Dir.bit_ofBit (b : Bool) : (Dir.ofBit b).bit = b := by cases b <;> rfl

/-- CFG reads back its three low bits (10_state.md R36). -/
theorem word_cfgOfWord (v : Word) : (Cfg.ofWord v).word = v &&& 0x7 := by
  have hmask (i : Nat) (hi : 3 ≤ i) : (0x7 : Word).getLsbD i = false := by
    rw [← BitVec.testBit_toNat]
    exact Nat.testBit_lt_two_pow (lt_of_lt_of_le (by decide) (Nat.pow_le_pow_right (by decide) hi))
  refine BitVec.eq_of_getLsbD_eq fun i _ => ?_
  simp only [getLsbD_cfgWord, Cfg.ofWord, Dir.bit_ofBit, BitVec.getLsbD_and]
  match i with
  | 0 | 1 | 2 => simp
  | i + 3 =>
    rw [hmask (i + 3) (by omega)]
    simp

/-- What a channel register reads as after a write of it. -/
theorem Channel.regValue_store_same {n : Width} (c : Channel n.bits) {r : ChanReg} {m : Word} (v : Word)
    (h : writableBits (.chan n r) = some m) : (c.store r v).regValue r = v &&& m := by
  cases r with
  | poly | init | xorout =>
    cases h
    exact zext32_setWidth (bits_le_32 n) v
  | cfg =>
    cases h
    exact word_cfgOfWord v
  | tblstat | tblpoly | table i => cases h

/-- A write of a channel register leaves the others. -/
theorem Channel.regValue_store_of_ne {w : Nat} (c : Channel w) {r r' : ChanReg} (h : r' ≠ r) (v : Word) :
    (c.store r v).regValue r' = c.regValue r' := by
  cases r <;> cases r'
  case poly.poly | init.init | xorout.xorout | cfg.cfg => exact absurd rfl h
  all_goals rfl

theorem State.regValue_writeReg_same (s : State) {r : Reg} {m : Word} (v : Word) (h : writableBits r = some m) :
    (s.writeReg r v).regValue r = v &&& m := by
  cases r with
  | addr | len | opnd =>
    cases h
    exact BitVec.and_allOnes.symm
  | cmd | status | result | faultaddr => cases h
  | chan n c => rw [regValue_chan, s.writeReg_channel, Channel.regValue_store_same _ v h]

/-- A write of a read/write register leaves every other register. -/
theorem State.regValue_writeReg_of_ne (s : State) {r r' : Reg} {m : Word} (v : Word) (h : writableBits r = some m)
    (hr : r' ≠ r) : (s.writeReg r v).regValue r' = s.regValue r' := by
  cases r with
  | cmd | status | result | faultaddr => cases h
  | addr | len | opnd =>
    cases r' with
    | chan n c => cases n <;> rfl
    | cmd | status | addr | len | opnd | result | faultaddr =>
      simp_all [State.writeReg, State.regValue, State.busy]
  | chan n c =>
    cases r' with
    | chan n' c' =>
      rw [regValue_chan, regValue_chan]
      by_cases hn : n = n'
      · subst hn
        rw [s.writeReg_channel, Channel.regValue_store_of_ne _ (fun hc => hr (by rw [hc]))]
      · rw [s.writeReg_channel_of_ne hn]
    | cmd | status | addr | len | opnd | result | faultaddr => cases n <;> rfl

/-- A write of a read/write register leaves the latch, buffer memory and the platform. -/
theorem State.writeReg_frame (s : State) {r : Reg} {m : Word} (v : Word) (h : writableBits r = some m) :
    (s.writeReg r v).pending = s.pending ∧ (s.writeReg r v).mem = s.mem ∧
      (s.writeReg r v).platform = s.platform := by
  cases r with
  | cmd | status | result | faultaddr => cases h
  | addr | len | opnd => exact ⟨rfl, rfl, rfl⟩
  | chan n c => cases n <;> exact ⟨rfl, rfl, rfl⟩

/-- Settles O33: while idle the write is the register's own; after it the block is still idle, so the read returns the
register's value, which is the value written cut to the writable bits. -/
theorem idleWriteStoresTheWritableBits : Obligations.IdleWriteStoresTheWritableBits := by
  intro s r v m hb hm
  rw [hostStore_regOffset_of_idle r v hb]
  obtain ⟨hpending, hmem, hplatform⟩ := s.writeReg_frame v hm
  have hidle : (s.writeReg r v).busy = false := busy_eq_false_iff.mpr (hpending.trans (busy_eq_false_iff.mp hb))
  have htable : ∀ n i, r = .chan n (.table i) → (s.writeReg r v).tvalid n = true := by
    rintro n i rfl
    cases hm
  exact ⟨s.writeReg_stored r v, (hostLoad_of_idle hidle htable).trans (s.regValue_writeReg_same v hm),
    fun r' => s.regValue_writeReg_of_ne v hm, hidle, hmem, hplatform⟩

end Sys2Proof.Machine
end

section
/-! PROOFS. 20_memory.md: host accesses on the bus (R66, R68; 10_state.md R24), and buffer bytes written while idle
(R72 e); 70_reset_and_hazards.md: what the reset event leaves (R200). -/

namespace Sys2Proof.Machine

/-! ### The move that comes next -/

theorem step_of_hostRead {s : State} {a bits : Nat} (h : s.nextEvent = .hostRead a bits) :
    step s = .next (s.popEvent.hostRead a bits) := by
  simp only [step, h, State.move, State.worldMove]

theorem step_of_hostWrite {s : State} {a bits : Nat} {v : Word} (h : s.nextEvent = .hostWrite a bits v) :
    step s = .next (s.popEvent.hostWrite a bits v) := by
  simp only [step, h, State.move, State.worldMove]

theorem nextEvent_of_agenda {s : State} {e : Event} {rest : List Event} (h : s.agenda = e :: rest) :
    s.nextEvent = e := by
  simp only [State.nextEvent, h]

theorem popEvent_of_agenda {s : State} {e : Event} {rest : List Event} (h : s.agenda = e :: rest) :
    s.popEvent = { s with agenda := rest } := by
  rw [State.popEvent, h, List.tail_cons]

/-! ### Accesses in the block's window -/

/-- Every offset of the window is found at BASE + offset (10_state.md R23). -/
theorem windowOffset_base_add (p : Platform) {off : Nat} (h : off < windowSize) :
    windowOffset p (p.base + off) = some off := by
  simp [windowOffset, h]

/-- A host write acts on the block's registers alone, so it does not matter when its move is taken off the agenda. -/
theorem State.writeReg_popEvent (s : State) (r : Reg) (v : Word) :
    s.popEvent.writeReg r v = (s.writeReg r v).popEvent := by
  cases r with
  | status =>
    rw [State.writeReg_status, State.writeReg_status]
    rfl
  | chan n c => cases n <;> rfl
  | cmd | addr | len | opnd | result | faultaddr => rfl

theorem hostStore_popEvent (s : State) (off : Nat) (v : Word) :
    s.popEvent.hostStore off v = (s.hostStore off v).popEvent := by
  have hbusy : s.popEvent.busy = s.busy := rfl
  unfold State.hostStore
  rw [hbusy]
  split
  · rfl
  · cases regAt off with
    | none => rfl
    | some r => exact s.writeReg_popEvent r v

/-- What a host read is answered (10_state.md R24; 20_memory.md R66). -/
def State.hostAnswer (s : State) (a bits : Nat) : Answer :=
  match windowOffset s.platform a with
  | none => .notSelected
  | some off => if accessOk off bits then .data (s.hostLoad off) else .busError

/-- A host read records its answer and changes nothing else (20_memory.md R68). -/
theorem hostRead_eq_answer (s : State) (a bits : Nat) : s.hostRead a bits = s.answer (s.hostAnswer a bits) := by
  unfold State.hostRead State.hostAnswer
  cases windowOffset s.platform a with
  | none => rfl
  | some off => cases h : accessOk off bits <;> simp [h]

theorem hostAnswer_regOffset (s : State) (r : Reg) :
    s.hostAnswer (s.platform.base + regOffset r) 32 = .data (s.readReg r) := by
  have haccess : accessOk (regOffset r) 32 = true := accessOk_eq_true_iff.mpr ⟨rfl, regOffset_mod_four r⟩
  simp [State.hostAnswer, windowOffset_base_add s.platform (regOffset_lt_windowSize r), haccess, hostLoad_regOffset]

/-- The answer does not depend on the moves to come. -/
theorem hostAnswer_popEvent (s : State) (a bits : Nat) : s.popEvent.hostAnswer a bits = s.hostAnswer a bits := rfl

/-- The answer does not depend on the answers before it. -/
theorem hostAnswer_answer (s : State) (x : Answer) (a bits : Nat) :
    (s.answer x).hostAnswer a bits = s.hostAnswer a bits := rfl

/-- A step that is a host read (20_memory.md R68). -/
theorem step_hostRead {s : State} {a bits : Nat} (h : s.nextEvent = .hostRead a bits) :
    step s = .next (s.popEvent.answer (s.hostAnswer a bits)) := by
  rw [step_of_hostRead h, hostRead_eq_answer, hostAnswer_popEvent]

/-- Settles O29: the offset of a register is aligned and in the window, so the access reaches that register. -/
theorem hostAccessReachesItsRegister : Obligations.HostAccessReachesItsRegister := by
  intro s r v rest
  refine ⟨fun hagenda => ?_, fun hagenda => ?_⟩
  · rw [step_hostRead (nextEvent_of_agenda hagenda), hostAnswer_regOffset, popEvent_of_agenda hagenda]
    rfl
  · have hwindow := windowOffset_base_add s.platform (regOffset_lt_windowSize r)
    have haccess : accessOk (regOffset r) 32 = true := accessOk_eq_true_iff.mpr ⟨rfl, regOffset_mod_four r⟩
    have hwrite : step s = .next ((((s.hostStore (regOffset r) v).popEvent).redraw).answer .written) := by
      rw [step_of_hostWrite (nextEvent_of_agenda hagenda), State.hostWrite, State.popEvent_platform, hwindow]
      simp only [haccess, if_true, hostStore_popEvent]
    refine ⟨_, hwrite, ?_, ?_, fun _ => rfl, rfl, ?_, ?_, ?_⟩ <;> rw [hostStore_frame]
    · exact congrArg List.tail hagenda
    all_goals rfl

/-- Settles O30: such an access is in the window and not defined, so its answer is all that changes. -/
theorem badAccessGetsABusError : Obligations.BadAccessGetsABusError := by
  intro s off bits v rest hoff hbad hagenda
  have hwindow := windowOffset_base_add s.platform hoff
  have haccess : accessOk off bits = false :=
    Bool.eq_false_iff.mpr fun h => by
      obtain ⟨hbits, halign⟩ := accessOk_eq_true_iff.mp h
      exact hbad.elim (absurd hbits) (absurd halign)
  rcases hagenda with hread | hwrite
  · rw [step_hostRead (nextEvent_of_agenda hread), State.hostAnswer, hwindow, popEvent_of_agenda hread]
    simp only [haccess, Bool.false_eq_true, if_false]
    rfl
  · rw [step_of_hostWrite (nextEvent_of_agenda hwrite), State.hostWrite, State.popEvent_platform, hwindow,
      popEvent_of_agenda hwrite]
    simp only [haccess, Bool.false_eq_true, if_false]
    rfl

/-- Settles O31: a read records its answer alone, and the answer depends on nothing that a read changes. -/
theorem hostReadsHaveNoSideEffect : Obligations.HostReadsHaveNoSideEffect := by
  intro s t a bits he h
  rw [step_hostRead he] at h
  obtain rfl := Host.Outcome.next.inj h
  refine ⟨s.hostAnswer a bits, rfl, fun he' => ⟨_, step_hostRead he', ?_⟩⟩
  rw [hostAnswer_answer, hostAnswer_popEvent]
  rfl

/-! ### Buffer bytes -/

/-- A readable byte that is not raced reads as the list has it (20_memory.md R60, R72 e). -/
theorem memRead_of_read {s : State} {a : Word} {b : Byte} (hok : bufOk s.platform a = true)
    (hside : readHasSideEffect s.platform a = false) (hraced : a ∉ s.raced)
    (hread : Memory.read s.mem a.toNat = some b) : s.memRead a = .byte b := by
  simp [State.memRead, hok, hside, hraced, hread]

/-- Settles O39: the latch finds no byte raced, so the engine reads memory, where the write set one byte. -/
theorem bufferWriteThenRead : Obligations.BufferWriteThenRead := by
  intro s a b v _ hok hside
  refine ⟨memRead_of_read hok hside List.not_mem_nil ?_, fun a' hne => ?_⟩
  · exact Memory.read_write_same s.mem a.toNat b
  · refine memRead_congr a' rfl rfl rfl fun _ => ?_
    exact Memory.read_write_other s.mem b fun h => hne (BitVec.eq_of_toNat_eq h)

/-! ### Reset -/

/-- Settles O41: the step is `State.resetRegisters`, which sets registers alone. -/
theorem resetKeepsThePlatformSide : Obligations.ResetKeepsThePlatformSide := by
  intro s t he h
  rw [step_of_reset he] at h
  obtain rfl := Host.Outcome.next.inj h
  exact ⟨rfl, rfl, rfl, rfl, rfl⟩

end Sys2Proof.Machine
end

section
/-! PROOFS. 41_stream_reducer.md: the Right step (R124, R125), and that folding a byte through a built table is
bit-serial division (R123, R124; 40_table_builder.md R100). -/

namespace Sys2Proof.Machine

/-! ### The Right step -/

theorem lowByte_eq_ofNat {w : Nat} (c : BitVec w) : lowByte c = BitVec.ofNat 8 (c.toNat % 256) := by
  apply BitVec.eq_of_toNat_eq
  simp [lowByte]

/-- The low byte of an 8-bit register is the register. -/
@[simp] theorem lowByte_byte (c : BitVec 8) : lowByte c = c :=
  BitVec.extractLsb'_eq_self

/-- 41_stream_reducer.md R124 for every width. -/
theorem toNat_stepRight {w : Nat} (t : Table w) (c : BitVec w) (b : Byte) :
    (stepRight t c b).toNat =
      (tableEntry t (BitVec.ofNat 8 (c.toNat % 256) ^^^ b)).toNat ^^^ (c.toNat / 256) := by
  rw [stepRight, BitVec.toNat_xor, BitVec.toNat_ushiftRight, Nat.shiftRight_eq_div_pow, lowByte_eq_ofNat]

/-- At width 8 the shift leaves nothing of the register, so the wide form is the table entry alone. -/
theorem stepRight_byte (t : Table 8) (c b : BitVec 8) : stepRight t c b = tableEntry t (c ^^^ b) := by
  have hshift : c >>> 8 = 0#8 := BitVec.ushiftRight_eq_zero (le_refl 8)
  rw [stepRight, hshift, lowByte_byte, BitVec.xor_zero]

theorem step8_right_literal (t : Table 8) (c b : BitVec 8) :
    step8 .literal t .right c b = tableEntry t (c ^^^ b) ^^^ c := rfl

theorem step8_right_generic (t : Table 8) (c b : BitVec 8) :
    step8 .generic t .right c b = tableEntry t (c ^^^ b) := rfl

/-- 41_stream_reducer.md R125: the two forms differ by the register itself. -/
theorem step8_right_literal_ne_generic_iff (t : Table 8) (c b : BitVec 8) :
    step8 .literal t .right c b ≠ step8 .generic t .right c b ↔ c ≠ 0 := by
  rw [step8_right_literal, step8_right_generic, Ne, Ne, not_iff_not]
  constructor
  · intro h
    calc c = tableEntry t (c ^^^ b) ^^^ (tableEntry t (c ^^^ b) ^^^ c) := by
          rw [← BitVec.xor_assoc, BitVec.xor_self, BitVec.zero_xor]
      _ = 0#8 := by rw [h, BitVec.xor_self]
  · intro h
    rw [h]
    exact BitVec.xor_zero

/-- Settles O16: widths 16 and 32 are the form of every width; at width 8 the wide form drops the register, and LITERAL
XORs it in again. -/
theorem rightStepForms : Obligations.RightStepForms :=
  ⟨toNat_stepRight, toNat_stepRight, fun t c b =>
    ⟨step8_right_literal t c b, step8_right_generic t c b, (stepRight_byte t c b).symm,
      step8_right_literal_ne_generic_iff t c b⟩⟩

/-! ### Bit-serial division

The register is the byte at the end it shifts out of, XORed with the rest. The builder is linear: from the byte and
the new byte its eight steps make the table's entry, and from the rest they only shift. -/

/-- While the bits tested are 0, Left steps only shift. -/
theorem builderSteps_left_of_zero_bits {w : Nat} (poly r : BitVec w) (k : Nat)
    (h : ∀ i, w ≤ i + k → r.getLsbD i = false) : builderSteps poly .left k r = r <<< k := by
  induction k generalizing r with
  | zero => simp [builderSteps]
  | succ k ih =>
    have htop : r.getLsbD (w - 1) = false := h (w - 1) (by omega)
    have hrest : ∀ i, w ≤ i + k → (r <<< 1).getLsbD i = false := by
      intro i hi
      by_cases h0 : i = 0
      · simp [h0]
      · simp [h (i - 1) (by omega)]
    rw [builderSteps, builderStep_left, htop, builderFeedback_false, BitVec.xor_zero, ih _ hrest,
      ← BitVec.shiftLeft_add, Nat.add_comm]

/-- While the bits tested are 0, Right steps only shift. -/
theorem builderSteps_right_of_zero_bits {w : Nat} (poly r : BitVec w) (k : Nat)
    (h : ∀ i < k, r.getLsbD i = false) : builderSteps poly .right k r = r >>> k := by
  induction k generalizing r with
  | zero => simp [builderSteps]
  | succ k ih =>
    have hlow : r.getLsbD 0 = false := h 0 (by omega)
    have hrest : ∀ i < k, (r >>> 1).getLsbD i = false := by
      intro i hi
      rw [BitVec.getLsbD_ushiftRight]
      exact h (1 + i) (by omega)
    rw [builderSteps, builderStep_right, hlow, builderFeedback_false, BitVec.xor_zero, ih _ hrest,
      ← BitVec.shiftRight_add, Nat.add_comm]

/-- A Left register is its top byte as a seed, XORed with its other bits. -/
theorem eq_seed_topByte_xor {w : Nat} (hw : 8 ≤ w) (c : BitVec w) :
    c = builderSeed .left (topByte c) ^^^ c <<< 8 >>> 8 := by
  ext i hi
  by_cases htop : i < w - 8
  · simp [builderSeed, htop, show 8 + i < w by omega]
  · have hbyte : i - (w - 8) < 8 := by omega
    simp [builderSeed, topByte, hi, htop, hbyte, show ¬ 8 + i < w by omega, show w - 8 + (i - (w - 8)) = i by omega]

/-- A Right register is its low byte as a seed, XORed with its other bits. -/
theorem eq_seed_lowByte_xor {w : Nat} (c : BitVec w) :
    c = builderSeed .right (lowByte c) ^^^ c >>> 8 <<< 8 := by
  ext i hi
  by_cases hlow : i < 8
  · simp [builderSeed, lowByte, hi, hlow]
  · simp [builderSeed, lowByte, hi, hlow, show 8 + (i - 8) = i by omega]

theorem shiftLeft_ushiftRight_shiftLeft {w : Nat} (c : BitVec w) (k : Nat) : c <<< k >>> k <<< k = c <<< k := by
  ext i hi
  by_cases hlow : i < k
  · simp [hlow]
  · simp [hlow, show k + (i - k) < w by omega]

theorem ushiftRight_shiftLeft_ushiftRight {w : Nat} (c : BitVec w) (k : Nat) : c >>> k <<< k >>> k = c >>> k := by
  ext i hi
  simpa using BitVec.lt_of_getLsbD (x := c) (i := k + i)

/-- Eight Left steps carry the top byte out and shift the rest up. -/
theorem stepLeft_buildTable {w : Nat} (hw : 8 ≤ w) (poly c : BitVec w) (b : Byte) :
    stepLeft (buildTable poly .left) c b = (builderStep poly .left)^[8] (c ^^^ builderSeed .left b) := by
  have hrest : builderSteps poly .left 8 (c <<< 8 >>> 8) = c <<< 8 := by
    rw [builderSteps_left_of_zero_bits poly _ 8 fun i hi => ?_]
    · exact shiftLeft_ushiftRight_shiftLeft c 8
    · rw [BitVec.getLsbD_ushiftRight]
      exact BitVec.getLsbD_of_ge _ _ (by omega)
  rw [← builderSteps_eq_iterate]
  calc stepLeft (buildTable poly .left) c b
      = builderEntry poly .left (topByte c ^^^ b) ^^^ c <<< 8 := by
        rw [stepLeft, tableEntry_buildTable, BitVec.xor_comm]
    _ = builderSteps poly .left 8 (builderSeed .left (topByte c ^^^ b) ^^^ c <<< 8 >>> 8) := by
        rw [builderSteps_xor, hrest, builderEntry]
    _ = builderSteps poly .left 8 (c ^^^ builderSeed .left b) := by
        rw [builderSeed_xor, BitVec.xor_assoc, BitVec.xor_comm (builderSeed .left b), ← BitVec.xor_assoc,
          ← eq_seed_topByte_xor hw]

/-- Eight Right steps carry the low byte out and shift the rest down. -/
theorem stepRight_buildTable {w : Nat} (poly c : BitVec w) (b : Byte) :
    stepRight (buildTable poly .right) c b = (builderStep poly .right)^[8] (c ^^^ builderSeed .right b) := by
  have hrest : builderSteps poly .right 8 (c >>> 8 <<< 8) = c >>> 8 := by
    rw [builderSteps_right_of_zero_bits poly _ 8 fun i hi => ?_]
    · exact ushiftRight_shiftLeft_ushiftRight c 8
    · simp [hi]
  rw [← builderSteps_eq_iterate]
  calc stepRight (buildTable poly .right) c b
      = builderEntry poly .right (lowByte c ^^^ b) ^^^ c >>> 8 := by
        rw [stepRight, tableEntry_buildTable]
    _ = builderSteps poly .right 8 (builderSeed .right (lowByte c ^^^ b) ^^^ c >>> 8 <<< 8) := by
        rw [builderSteps_xor, hrest, builderEntry]
    _ = builderSteps poly .right 8 (c ^^^ builderSeed .right b) := by
        rw [builderSeed_xor, BitVec.xor_assoc, BitVec.xor_comm (builderSeed .right b), ← BitVec.xor_assoc,
          ← eq_seed_lowByte_xor]

theorem stepWide_buildTable {w : Nat} (hw : 8 ≤ w) (poly c : BitVec w) (d : Dir) (b : Byte) :
    stepWide (buildTable poly d) d c b = (builderStep poly d)^[8] (c ^^^ builderSeed d b) :=
  match d with
  | .left => stepLeft_buildTable hw poly c b
  | .right => stepRight_buildTable poly c b

/-- Settles O17: the wide forms at every width from 8 up, which at width 8 are the Left form and GENERIC. -/
theorem tableFoldIsBitSerialDivision : Obligations.TableFoldIsBitSerialDivision := by
  refine ⟨stepWide_buildTable (by decide), stepWide_buildTable (by decide), fun poly c f b => ?_,
    fun poly c b => ?_⟩
  · rw [step8_left, ← stepLeft_byte]
    exact stepLeft_buildTable (by decide) poly c b
  · rw [step8_right_generic, ← stepRight_byte]
    exact stepRight_buildTable poly c b

end Sys2Proof.Machine
end

section
/-! PROOFS. 41_stream_reducer.md: CALC over a readable buffer (R120), where it is refused (20_memory.md R69), and what
its outcome depends on (R129; 20_memory.md R73). -/

namespace Sys2Proof.Machine

/-! ### The buffer -/

/-- Settles O24: past the range check ADDR + k is below 2^32, so cutting it to 32 bits loses nothing. -/
theorem bufferAddressesDoNotWrap : Obligations.BufferAddressesDoNotWrap := by
  intro s k hrange hk
  have hsum := outOfRange_eq_false_iff.mp hrange
  rw [State.bufferAddress, BitVec.toNat_ofNat, Nat.mod_eq_of_lt (by omega)]

/-- The fold from ADDR on reads the bytes the buffer holds, to its end. -/
theorem foldBytes_of_bufferHolds {w : Nat} {s : State} {bs : List Byte} (hlen : bs.length = s.len.toNat)
    (hbs : s.BufferHolds bs) (refin : Bool) (stp : BitVec w → Byte → BitVec w) (c : BitVec w) (log : List Word) :
    s.foldBytes refin stp s.len.toNat 0 c log =
      .done (bs.foldl (fun c b => stp c (inputByte refin b)) c) (s.addressesRead bs.length ++ log) := by
  have hfold := foldBytes_done s refin stp bs 0 c log
  simp only [Nat.zero_add] at hfold
  rw [← hlen]
  exact hfold hbs

/-- The checksum of 41_stream_reducer.md R120 is the final value of the fold that CALC runs. -/
theorem foldWord_eq {w : Nat} (ch : Channel w) (stp : BitVec w → Byte → BitVec w) (bs : List Byte) :
    foldWord ch stp bs =
      zext32 (ch.finalValue (bs.foldl (fun c b => stp c (inputByte ch.cfg.refin b)) ch.init)) := by
  unfold foldWord Channel.finalValue inputByte
  cases ch.cfg.refin
  · rfl
  · simp only [if_true, List.foldl_map]

/-- Settles O18: past both checks the fold reads the whole buffer, and its final value is the checksum. -/
theorem streamReducersComplete : Obligations.StreamReducersComplete := by
  refine ⟨⟨rfl, rfl, rfl⟩, fun s n bs hvalid hrange hlen hbs => ?_⟩
  have hfold := foldBytes_of_bufferHolds hlen hbs (s.channel n).cfg.refin (s.calcStep n) (s.channel n).init s.bytesRead
  have hexec := (exec_calcCommand s n).trans
    (calc_of_done _ (tvalid_eq_channel s n ▸ hvalid) (outOfRange_eq_false_iff.mpr hrange) hfold)
  refine ⟨_, hexec, ?_, rfl, exec_ends hexec, State.sameBindings_of_channels rfl rfl rfl, rfl⟩
  rw [checksumWord_eq_foldWord, foldWord_eq]
  rfl

/-! ### Refusals -/

/-- A fold over readable bytes goes on after them. -/
theorem foldBytes_after_bytes {w : Nat} (s : State) (refin : Bool) (stp : BitVec w → Byte → BitVec w)
    (bs : List Byte) (n k : Nat) (c : BitVec w) (log : List Word)
    (h : ∀ j (hj : j < bs.length), s.memRead (s.bufferAddress (k + j)) = .byte bs[j]) :
    ∃ c' log', s.foldBytes refin stp (bs.length + n) k c log =
      s.foldBytes refin stp n (k + bs.length) c' log' := by
  induction bs generalizing k c log with
  | nil => exact ⟨c, log, by simp⟩
  | cons b bs ih =>
    have hhead : s.memRead (s.bufferAddress k) = .byte b := h 0 (Nat.succ_pos _)
    have htail (j : Nat) (hj : j < bs.length) : s.memRead (s.bufferAddress (k + 1 + j)) = .byte bs[j] := by
      have := h (j + 1) (Nat.succ_lt_succ hj)
      rwa [← Nat.add_assoc, Nat.add_right_comm] at this
    obtain ⟨c', log', hrest⟩ := ih (k + 1) (stp c (inputByte refin b)) (s.bufferAddress k :: log) htail
    refine ⟨c', log', ?_⟩
    rw [List.length_cons, Nat.add_right_comm, State.foldBytes, hhead, ← Nat.add_assoc, Nat.add_right_comm k]
    exact hrest

section Calc
variable {w : Nat} {s : State} {ch : Channel w} (stp : BitVec w → Byte → BitVec w)

/-- The fold from ADDR on stops at the byte whose read has a side effect. -/
theorem foldBytes_of_bufferHolds_of_sideEffect {bs : List Byte} (hlen : bs.length < s.len.toNat)
    (hbs : s.BufferHolds bs) (hside : s.memRead (s.bufferAddress bs.length) = .sideEffect) (refin : Bool)
    (c : BitVec w) (log : List Word) :
    s.foldBytes refin stp s.len.toNat 0 c log = .sideEffect (s.bufferAddress bs.length) := by
  obtain ⟨n, hn⟩ : ∃ n, s.len.toNat = bs.length + (n + 1) := ⟨s.len.toNat - bs.length - 1, by omega⟩
  obtain ⟨c', log', hfold⟩ := foldBytes_after_bytes s refin stp bs (n + 1) 0 c log
    (fun j hj => by rw [Nat.zero_add]; exact hbs j hj)
  rw [hn, hfold, Nat.zero_add, State.foldBytes, hside]

/-- 20_memory.md R69: both checks passed and a read that would have a side effect. -/
theorem calc_of_sideEffect {a : Word} (hv : ch.tvalid = true) (hr : s.outOfRange = false)
    (hf : s.foldBytes ch.cfg.refin stp s.len.toNat 0 ch.init s.bytesRead = .sideEffect a) :
    s.calc ch stp = .refused (.sideEffectingBuffer a) := by
  simp [State.calc, hv, hr, hf]

/-- Nothing but a read with a side effect refuses a CALC. -/
theorem calc_answers (ch : Channel w) (h : ∀ k < s.len.toNat, s.memRead (s.bufferAddress k) ≠ .sideEffect) :
    ∃ t, s.calc ch stp = .next t := by
  cases hv : ch.tvalid with
  | false => exact ⟨_, calc_of_no_table stp hv⟩
  | true =>
    cases hr : s.outOfRange with
    | true => exact ⟨_, calc_of_outOfRange stp hv hr⟩
    | false =>
      rcases foldBytes_not_refused ch.cfg.refin stp s.len.toNat 0 ch.init s.bytesRead
        (fun j _ hj => h j (by omega)) with ⟨c, l, hdone⟩ | ⟨a, l, hfault⟩
      · exact ⟨_, calc_of_done stp hv hr hdone⟩
      · exact ⟨_, calc_of_busFault stp hv hr hfault⟩

end Calc

/-- Every command answers when no byte of the buffer reads with a side effect. -/
theorem exec_answers {s : State} (i : Instr)
    (h : ∀ k < s.len.toNat, s.memRead (s.bufferAddress k) ≠ .sideEffect) : ∃ t, exec i s = .next t := by
  obtain rfl | ⟨n, rfl | rfl | rfl⟩ := Instr.eq_nop_or_of_width i
  · exact ⟨_, exec_nop s⟩
  · exact ⟨_, exec_mktblOf s n⟩
  · rw [exec_calcCommand]
    exact calc_answers _ _ h
  · exact ⟨_, exec_revCommand s n⟩

/-- Settles O23: the fold reaches the byte and stops there, and nothing else is refused. -/
theorem calcRefusesSideEffectingBuffers : Obligations.CalcRefusesSideEffectingBuffers := by
  refine ⟨fun s n bs hvalid hrange hlen hbs hside => ?_, fun s i => exec_answers i⟩
  have hfold := foldBytes_of_bufferHolds_of_sideEffect (s.calcStep n) hlen hbs hside (s.channel n).cfg.refin
    (s.channel n).init s.bytesRead
  rw [exec_calcCommand]
  exact calc_of_sideEffect _ (tvalid_eq_channel s n ▸ hvalid) (outOfRange_eq_false_iff.mpr hrange) hfold

/-! ### What the outcome depends on -/

/-- The end of a fold with more reads before it on record. -/
def FoldEnd.addReads {w : Nat} (log : List Word) : FoldEnd w → FoldEnd w
  | .done c l => .done c (l ++ log)
  | .busFault a l => .busFault a (l ++ log)
  | .sideEffect a => .sideEffect a

/-- The reads on record before a fold do not steer it. -/
theorem foldBytes_append_log {w : Nat} (s : State) (refin : Bool) (stp : BitVec w → Byte → BitVec w) (n k : Nat)
    (c : BitVec w) (l log : List Word) :
    s.foldBytes refin stp n k c (l ++ log) = (s.foldBytes refin stp n k c l).addReads log := by
  induction n generalizing k c l with
  | zero => rfl
  | succ n ih =>
    simp only [State.foldBytes]
    cases s.memRead (s.bufferAddress k) with
    | byte b => exact ih (k + 1) (stp c (inputByte refin b)) (s.bufferAddress k :: l)
    | fault => rfl
    | sideEffect => rfl

theorem FoldEnd.exists_of_addReads_eq_done {w : Nat} {f : FoldEnd w} {log log' : List Word} {c : BitVec w}
    (h : f.addReads log = .done c log') : ∃ l, f = .done c l ∧ log' = l ++ log := by
  cases f <;> cases h
  exact ⟨_, rfl, rfl⟩

theorem FoldEnd.exists_of_addReads_eq_busFault {w : Nat} {f : FoldEnd w} {log log' : List Word} {a : Word}
    (h : f.addReads log = .busFault a log') : ∃ l, f = .busFault a l ∧ log' = l ++ log := by
  cases f <;> cases h
  exact ⟨_, rfl, rfl⟩

theorem Channel.SameFold.finalValue {w : Nat} {ch ch' : Channel w} (h : ch.SameFold ch') (c : BitVec w) :
    ch'.finalValue c = ch.finalValue c := by
  rw [Channel.finalValue, Channel.finalValue, h.refout, h.xorout]

theorem stepWide_congr {w : Nat} {t t' : Table w} (h : ∀ i, tableEntry t' i = tableEntry t i) (dir : Dir)
    (c : BitVec w) (b : Byte) : stepWide t' dir c b = stepWide t dir c b := by
  cases dir <;> simp only [stepWide, stepLeft, stepRight, h]

theorem step8_congr {t t' : Table 8} (h : ∀ i, tableEntry t' i = tableEntry t i) (fold : Right8Fold) (dir : Dir)
    (c : BitVec 8) (b : Byte) : step8 fold t' dir c b = step8 fold t dir c b := by
  cases dir <;> cases fold <;> simp only [step8, h]

/-- The step of CALC is a function of the table's entries, TDIR and RIGHT8_FOLD (41_stream_reducer.md R121 to R125). -/
theorem calcStep_congr {s s' : State} {n : Width} (h : (s.channel n).SameFold (s'.channel n))
    (hfold : s'.platform.right8Fold = s.platform.right8Fold) (c : BitVec n.bits) (b : Byte) :
    s'.calcStep n c b = s.calcStep n c b := by
  obtain ⟨htable, -, htdir, -, -, -, -⟩ := h
  cases n with
  | w8 =>
    simp only [State.channel] at htdir
    rw [State.calcStep, State.calcStep, hfold, htdir]
    exact step8_congr htable _ _ c b
  | w16 | w32 =>
    simp only [State.channel] at htdir
    rw [State.calcStep, State.calcStep, htdir]
    exact stepWide_congr htable _ c b

/-- 41_stream_reducer.md R129 for a channel of any width: the checks, the fold and the final value are the same. -/
theorem calc_congr {w : Nat} {s s' t : State} {ch ch' : Channel w} {stp stp' : BitVec w → Byte → BitVec w}
    (hch : ch.SameFold ch') (hstp : ∀ c b, stp' c b = stp c b) (haddr : s'.addr = s.addr) (hlen : s'.len = s.len)
    (hreads : ∀ k < s.len.toNat, s'.memRead (s.bufferAddress k) = s.memRead (s.bufferAddress k))
    (h : s.calc ch stp = .next t) :
    ∃ t', s'.calc ch' stp' = .next t' ∧ t'.err = t.err ∧ (t.err = .ok → t'.result = t.result) ∧
      (t.err = .busFault → t'.faultaddr = t.faultaddr) ∧
      (s'.bytesRead = s.bytesRead → t'.bytesRead = t.bytesRead) := by
  have hrange : s'.outOfRange = s.outOfRange := by rw [State.outOfRange, State.outOfRange, haddr, hlen]
  have hfold : s'.foldBytes ch'.cfg.refin stp' s'.len.toNat 0 ch'.init s'.bytesRead =
      (s.foldBytes ch.cfg.refin stp s.len.toNat 0 ch.init []).addReads s'.bytesRead := by
    rw [hch.refin, hch.init, hlen, foldBytes_congr _ hstp haddr _ _ _ _ fun j _ hj => hreads j (by omega),
      ← foldBytes_append_log, List.nil_append]
  have hlog := foldBytes_append_log s ch.cfg.refin stp s.len.toNat 0 ch.init [] s.bytesRead
  rcases calc_cases h with ⟨hv, rfl⟩ | ⟨hv, hr, rfl⟩ | ⟨hv, hr, c, log, hdone, rfl⟩ | ⟨hv, hr, a, log, hfault, rfl⟩
  · exact ⟨_, calc_of_no_table stp' (hch.tvalid.trans hv), rfl, nofun, nofun, id⟩
  · exact ⟨_, calc_of_outOfRange stp' (hch.tvalid.trans hv) (hrange.trans hr), rfl, nofun, nofun, id⟩
  · obtain ⟨l, hl, rfl⟩ := FoldEnd.exists_of_addReads_eq_done (hlog.symm.trans hdone)
    rw [hl] at hfold
    exact ⟨_, calc_of_done stp' (hch.tvalid.trans hv) (hrange.trans hr) hfold, rfl,
      fun _ => congrArg zext32 (hch.finalValue c), nofun, congrArg (l ++ ·)⟩
  · obtain ⟨l, hl, rfl⟩ := FoldEnd.exists_of_addReads_eq_busFault (hlog.symm.trans hfault)
    rw [hl] at hfold
    exact ⟨_, calc_of_busFault stp' (hch.tvalid.trans hv) (hrange.trans hr) hfold, rfl, nofun, fun _ => rfl,
      congrArg (l ++ ·)⟩

/-- The same for the command of a width. -/
theorem exec_calcCommand_congr {s s' t : State} {n : Width} (hfold : (s.channel n).SameFold (s'.channel n))
    (haddr : s'.addr = s.addr) (hlen : s'.len = s.len) (hright8 : s'.platform.right8Fold = s.platform.right8Fold)
    (hreads : ∀ k < s.len.toNat, s'.memRead (s.bufferAddress k) = s.memRead (s.bufferAddress k))
    (h : exec (calcCommand n) s = .next t) :
    ∃ t', exec (calcCommand n) s' = .next t' ∧ t'.err = t.err ∧ (t.err = .ok → t'.result = t.result) ∧
      (t.err = .busFault → t'.faultaddr = t.faultaddr) ∧
      (s'.bytesRead = s.bytesRead → t'.bytesRead = t.bytesRead) := by
  rw [exec_calcCommand] at h ⊢
  exact calc_congr hfold (calcStep_congr hfold hright8) haddr hlen hreads h

/-- Settles O25: CALC of a channel reads nothing of the state but these. -/
theorem calcDependsOnlyOnItsOperands : Obligations.CalcDependsOnlyOnItsOperands := by
  intro s s' n hfold haddr hlen hright8 hreads t h
  obtain ⟨t', hexec, herr, hresult, hfaultaddr, -⟩ :=
    exec_calcCommand_congr (sameFold_iff_channel.mp hfold) haddr hlen hright8 hreads h
  exact ⟨t', hexec, herr, hresult, hfaultaddr⟩

/-! ### Writes of POLY and CFG -/

theorem Channel.SameFold.refl {w : Nat} (c : Channel w) : c.SameFold c :=
  ⟨fun _ => rfl, rfl, rfl, rfl, rfl, rfl, rfl⟩

/-- POLY is not among what CALC reads (41_stream_reducer.md R121). -/
theorem Channel.store_poly_sameFold {w : Nat} (c : Channel w) (v : Word) : c.SameFold (c.store .poly v) :=
  ⟨fun _ => rfl, rfl, rfl, rfl, rfl, rfl, rfl⟩

/-- CFG.DIR is not among what CALC reads (41_stream_reducer.md R121). -/
theorem Channel.store_cfg_sameFold {w : Nat} (c : Channel w) {v : Word}
    (h : c.cfg.word.extractLsb' 0 2 = v.extractLsb' 0 2) : c.SameFold (c.store .cfg v) := by
  have hbit (i : Nat) (hi : i < 2) : v.getLsbD i = c.cfg.word.getLsbD i := by
    have := congrArg (BitVec.getLsbD · i) h
    simpa [hi] using this.symm
  refine ⟨fun _ => rfl, rfl, rfl, rfl, rfl, ?_, ?_⟩
  · exact (hbit 0 (by decide)).trans (by rw [getLsbD_cfgWord]; simp)
  · exact (hbit 1 (by decide)).trans (by rw [getLsbD_cfgWord]; simp)

/-- A write of a channel register that leaves what CALC reads of the channel reaches no CALC of any channel. -/
theorem exec_calcCommand_writeReg {s t : State} {n m : Width} {c : ChanReg} {v : Word}
    (hstore : (s.channel m).SameFold ((s.channel m).store c v)) (h : exec (calcCommand n) s = .next t) :
    ∃ t', exec (calcCommand n) (s.writeReg (.chan m c) v) = .next t' ∧ t'.err = t.err ∧ t'.result = t.result ∧
      t'.faultaddr = t.faultaddr ∧ t'.bytesRead = t.bytesRead := by
  have hfold : (s.channel n).SameFold ((s.writeReg (.chan m c) v).channel n) := by
    by_cases hm : m = n
    · subst hm
      rw [s.writeReg_channel]
      exact hstore
    · rw [s.writeReg_channel_of_ne hm]
      exact .refl _
  have hframe : s.writeReg (.chan m c) v = { s with
      ch8 := (s.writeReg (.chan m c) v).ch8, ch16 := (s.writeReg (.chan m c) v).ch16,
      ch32 := (s.writeReg (.chan m c) v).ch32 } := by cases m <;> rfl
  generalize s.writeReg (.chan m c) v = s' at hfold hframe ⊢
  have hread (a : Word) : s'.memRead a = s.memRead a := by rw [hframe]; rfl
  obtain ⟨t', hexec, herr, hresult, hfaultaddr, hlog⟩ :=
    exec_calcCommand_congr hfold (by rw [hframe]) (by rw [hframe]) (by rw [hframe]) (fun k _ => hread _) h
  refine ⟨t', hexec, herr, ?_, ?_, hlog (by rw [hframe])⟩
  · by_cases hok : t.err = .ok
    · exact hresult hok
    · have hkeep := (exec_result h).resolve_right fun ⟨herr', _⟩ => hok herr'
      have hkeep' := (exec_result hexec).resolve_right fun ⟨herr', _⟩ => hok (herr.symm.trans herr')
      rw [hkeep, hkeep', hframe]
  · by_cases hfault : t.err = .busFault
    · exact hfaultaddr hfault
    · have hkeep := (exec_faultaddr h).resolve_right fun ⟨herr', _⟩ => hfault herr'
      have hkeep' := (exec_faultaddr hexec).resolve_right fun ⟨herr', _⟩ => hfault (herr.symm.trans herr')
      rw [hkeep, hkeep', hframe]

/-- Settles O26: neither write reaches what CALC reads, and RESULT and FAULTADDR where CALC leaves them are as they
were, which no write of a channel register changes. -/
theorem polyAndDirWritesReachNoCalc : Obligations.PolyAndDirWritesReachNoCalc := by
  intro s n m v t h
  refine ⟨exec_calcCommand_writeReg ((s.channel m).store_poly_sameFold v) h, fun hcfg => ?_⟩
  rw [regValue_chan] at hcfg
  exact exec_calcCommand_writeReg ((s.channel m).store_cfg_sameFold hcfg) h

/-! ### Raced bytes -/

/-- The port reads memory at no raced address (20_memory.md R73; log 7). -/
theorem memRead_with_mem {s : State} {m : Memory}
    (hm : ∀ a : Word, a ∉ s.raced → Memory.read m a.toNat = Memory.read s.mem a.toNat) (a : Word) :
    ({ s with mem := m } : State).memRead a = s.memRead a :=
  memRead_congr a rfl rfl rfl (hm a)

theorem calc_with_mem {w : Nat} {s t : State} {m : Memory} {ch : Channel w} {stp : BitVec w → Byte → BitVec w}
    (hm : ∀ a : Word, a ∉ s.raced → Memory.read m a.toNat = Memory.read s.mem a.toNat)
    (h : s.calc ch stp = .next t) : ({ s with mem := m } : State).calc ch stp = .next { t with mem := m } := by
  have hfold : ({ s with mem := m } : State).foldBytes ch.cfg.refin stp s.len.toNat 0 ch.init s.bytesRead =
      s.foldBytes ch.cfg.refin stp s.len.toNat 0 ch.init s.bytesRead :=
    foldBytes_congr (s := s) (s' := { s with mem := m }) _ (fun _ _ => rfl) rfl _ _ _ _ fun _ _ _ =>
      memRead_with_mem hm _
  rcases calc_cases h with ⟨hv, rfl⟩ | ⟨hv, hr, rfl⟩ | ⟨hv, hr, c, log, hdone, rfl⟩ | ⟨hv, hr, a, log, hfault, rfl⟩
  · exact calc_of_no_table stp hv
  · exact calc_of_outOfRange stp hv hr
  · exact calc_of_done stp hv hr (hfold.trans hdone)
  · exact calc_of_busFault stp hv hr (hfold.trans hfault)

/-- Settles O27: only CALC reads memory, through a port that answers the same. -/
theorem racedBytesDoNotShow : Obligations.RacedBytesDoNotShow := by
  intro s m i hm t h
  rcases exec_cases h with ⟨rfl, rfl⟩ | ⟨n, rfl, rfl⟩ | ⟨n, rfl, hcalc⟩ | ⟨n, rfl, rfl⟩
  · rfl
  · cases n <;> rfl
  · cases n <;> exact calc_with_mem hm hcalc
  · cases n <;> rfl

end Sys2Proof.Machine
end


section
/-! PROOFS. 70_reset_and_hazards.md R204: on a platform whose reads have no side effect every step answers, so a pending
command is executed; 30_encoding.md R89: a run of WAIT. -/

namespace Sys2Proof.Machine

/-- Only a CALC can be refused, and not where no read has a side effect. -/
theorem step_answers {s : State} (hp : s.platform.sideEffecting = []) : ∃ t, step s = .next t := by
  cases he : s.nextEvent with
  | engine =>
    rw [step_of_engine he, State.engineTurn]
    cases s.popEvent.fetched with
    | idle => exact ⟨_, rfl⟩
    | illegal => exact ⟨_, rfl⟩
    | command i => exact exec_answers i fun k _ => memRead_ne_sideEffect (s := s.popEvent) hp _
  | hostRead a bits => exact ⟨_, step_of_hostRead he⟩
  | hostWrite a bits v => exact ⟨_, step_of_hostWrite he⟩
  | bufferWrite a b => exact ⟨s.popEvent.bufferWrite a b, by simp only [step, he, State.move, State.worldMove]⟩
  | reset => exact ⟨_, step_of_reset he⟩

/-- A step takes one move off the agenda and adds none. -/
theorem step_agenda {s t : State} (h : step s = .next t) : t.agenda = s.agenda.tail := by
  rcases step_cases h with ⟨-, hturn⟩ | ⟨a, bits, -, rfl⟩ | ⟨a, bits, v, -, rfl⟩ | ⟨a, b, -, rfl⟩ | ⟨-, rfl⟩
  · rw [engineTurn_next hturn]
    rfl
  · rw [hostRead_eq_answer]
    rfl
  · obtain ⟨x, hx⟩ | ⟨off, -, hx⟩ := hostWrite_answer_or_writesAt s.popEvent a bits v
    · rw [hx]
      rfl
    · rw [hx, hostStore_frame]
      rfl
  · rfl
  · rfl

/-! ### The end of the agenda -/

/-- The moves of the agenda are followed by the engine's turn, after which nothing is pending. -/
theorem run_agenda {s : State} {l : List Event} (hp : s.platform.sideEffecting = []) (hl : s.agenda = l) :
    ∃ t, Sys2Proof.core.run (l.length + 1) s = .next t ∧ t.busy = false := by
  obtain ⟨t, ht⟩ := step_answers hp
  rw [run_next _ ht]
  induction l generalizing s t with
  | nil =>
    have he : s.nextEvent = .engine := by simp only [State.nextEvent, hl]
    exact ⟨t, rfl, step_engine_busy ht he⟩
  | cons e rest ih =>
    have hpt : t.platform.sideEffecting = [] := step_platform ht ▸ hp
    obtain ⟨u, hu⟩ := step_answers hpt
    rw [List.length_cons, run_next _ hu]
    exact ih hpt (by rw [step_agenda ht, hl, List.tail_cons]) u hu

/-- While a command is pending and no reset is to come, the engine's turn comes with the word and the operands as they
are (70_reset_and_hazards.md R204, R212). -/
theorem run_to_engineTurn {s : State} {l : List Event} (hp : s.platform.sideEffecting = []) (hl : s.agenda = l)
    (hbusy : s.busy = true) (hreset : .reset ∉ l) :
    ∃ k ≤ l.length, ∃ u, Sys2Proof.core.run k s = .next u ∧ u.nextEvent = .engine ∧ u.pending = s.pending ∧
      u.platform = s.platform ∧ ∀ r, r ≠ .status → u.regValue r = s.regValue r := by
  induction l generalizing s with
  | nil => exact ⟨0, le_refl 0, s, rfl, by simp only [State.nextEvent, hl], rfl, rfl, fun _ _ => rfl⟩
  | cons e rest ih =>
    have hnext : s.nextEvent = e := nextEvent_of_agenda hl
    obtain ⟨hne, hrest⟩ := not_or.mp (List.mem_cons.not.mp hreset)
    by_cases he : e = .engine
    · exact ⟨0, Nat.zero_le _, s, rfl, hnext.trans he, rfl, rfl, fun _ _ => rfl⟩
    · obtain ⟨t, ht⟩ := step_answers hp
      obtain ⟨hpending, -, hregs⟩ :=
        pendingCommandKeepsItsOperands s t ht hbusy (hnext ▸ he) (hnext ▸ Ne.symm hne)
      have hplatform := step_platform ht
      obtain ⟨k, hk, u, hrun, hu, hupending, huplatform, huregs⟩ :=
        ih (hplatform ▸ hp) (by rw [step_agenda ht, hl, List.tail_cons])
          ((congrArg Option.isSome hpending).trans hbusy) hrest
      exact ⟨k + 1, Nat.succ_le_succ hk, u, (run_next k ht).trans hrun, hu, hupending.trans hpending,
        huplatform.trans hplatform, fun r hr => (huregs r hr).trans (hregs r hr)⟩

/-- Settles O8: the run takes the moves of the agenda one by one; none of them but reset touches the pending word or an
operand, and the engine's turn, which comes at the latest when the agenda is empty, is the command's own step. -/
theorem pendingCommandIsEventuallyExecuted : Obligations.PendingCommandIsEventuallyExecuted := by
  intro s w hp hw
  refine ⟨⟨_, le_refl _, run_agenda hp rfl⟩, fun hreset => ?_⟩
  have hbusy : s.busy = true := congrArg Option.isSome hw
  obtain ⟨k, hk, u, hrun, hu, hpending, hplatform, hregs⟩ := run_to_engineTurn hp rfl hbusy hreset
  obtain ⟨t, ht⟩ := step_answers (hplatform ▸ hp : u.platform.sideEffecting = [])
  refine ⟨k, hk, u, t, hrun, hu, hpending.trans hw, hregs, ht, step_engine_busy ht hu, fun i hi => ?_, fun hi => ?_⟩
  · rw [← ht, stepRunsThePendingCommand u w i hu (hpending.trans hw) hi]
  · have hillegal : ∀ i, encode i ≠ w := fun i h => hi i (decode_eq_ok_iff.mpr h.symm)
    rw [step_of_illegal hu (hpending.trans hw) hillegal] at ht
    rw [← Host.Outcome.next.inj ht]
    rfl

/-! ### A run of WAIT -/

/-- The branch of WAIT is taken on what a read of STATUS returns exactly while BUSY = 1 (30_encoding.md R88). -/
theorem busyTaken_readReg_status (s : State) : busyTaken (s.readReg .status) = s.busy := by
  obtain ⟨hbusy, -⟩ := statusWord_fields s.busy s.werr s.readErr
  rw [readReg_status]
  exact hbusy

/-- A poll of WAIT: the step records what STATUS reads as. -/
theorem step_poll {s : State} {rest : List Event}
    (h : s.agenda = .hostRead (s.platform.base + regOffset .status) 32 :: rest) :
    step s = .next { s with agenda := rest, answers := .data (s.readReg .status) :: s.answers } :=
  (hostAccessReachesItsRegister s .status 0 rest).1 h

theorem waitEvents_succ (base polls : Nat) :
    waitEvents base (polls + 1) = .hostRead (base + regOffset .status) 32 :: waitEvents base polls := rfl

theorem step_engine_answers {s t : State} (h : step s = .next t) (he : s.nextEvent = .engine) :
    t.answers = s.answers := by
  rw [step_of_engine he] at h
  rw [engineTurn_next h]
  rfl

/-- Settles O42: by induction on the polls before the engine's turn, each of which finds the command still pending; after
the turn nothing is, and the last poll finds that. -/
theorem waitEndsWithBusyZero : Obligations.WaitEndsWithBusyZero := by
  intro s polls hp hbusy hagenda
  induction polls generalizing s with
  | zero =>
    have he : s.nextEvent = .engine := nextEvent_of_agenda hagenda
    obtain ⟨u, hu⟩ := step_answers hp
    have hidle : u.busy = false := step_engine_busy hu he
    have hrest : u.agenda = [.hostRead (u.platform.base + regOffset .status) 32] := by
      rw [step_agenda hu, hagenda, step_platform hu]
      rfl
    refine ⟨_, u.readReg .status, [], (run_next 1 hu).trans (run_next 0 (step_poll hrest)), hidle, ?_, rfl,
      (busyTaken_readReg_status u).trans hidle, nofun⟩
    rw [step_engine_answers hu he]
    rfl
  | succ polls ih =>
    rw [waitEvents_succ] at hagenda
    obtain ⟨t, v, vs, hrun, hidle, hanswers, hlength, hlast, hpolls⟩ :=
      ih { s with agenda := waitEvents s.platform.base polls, answers := .data (s.readReg .status) :: s.answers }
        hp hbusy rfl
    refine ⟨t, v, vs ++ [s.readReg .status], (run_next _ (step_poll hagenda)).trans hrun, hidle, ?_, ?_, hlast, ?_⟩
    · rw [hanswers]
      simp
    · rw [List.length_append, hlength, List.length_singleton]
    · intro x hx
      rcases List.mem_append.mp hx with hold | hnew
      · exact hpolls x hold
      · rw [List.mem_singleton.mp hnew, busyTaken_readReg_status]
        exact hbusy

end Sys2Proof.Machine
end
